-- ==== Sys2Proof/Word.lean ====
section
/-! DEFINITION. The widths of the machine: words, bytes, register numbers (spec/00_scope.md R5, R7, R8). -/

namespace Sys2Proof

/-- Registers, PC, memory cells, addresses and instructions are 16 bits wide (R8). Sums wrap modulo 65536. -/
abbrev Word := BitVec 16

/-- A byte of the host channels (R28, R29). -/
abbrev Byte := BitVec 8

/-- A general register's number, 0 to 7: always a 3-bit field (R33, R57). -/
abbrev RegId := BitVec 3

end Sys2Proof
end

