-- ==== Sys2Proof/Syntax.lean ====
section
/-! DEFINITION. The instructions: one constructor per row of spec/opcode_table.json, its fields in the order of the
word's bits from the top (spec/30_encoding.md R58), the ignored bits among them. -/

namespace Sys2Proof

/-- One constructor per row. A field named `ign` holds the bits the instruction ignores (R60): no meaning reads them,
but for the word that a ReservedOpcode fault records (R93, R94). -/
inductive Instr where
  /-- ADD, register mode (R69). -/
  | addReg (dr sr1 : RegId) (ign : BitVec 2) (sr2 : RegId)
  /-- ADD, immediate mode (R70). -/
  | addImm (dr sr1 : RegId) (imm5 : BitVec 5)
  /-- AND, register mode (R71). -/
  | andReg (dr sr1 : RegId) (ign : BitVec 2) (sr2 : RegId)
  /-- AND, immediate mode (R72). -/
  | andImm (dr sr1 : RegId) (imm5 : BitVec 5)
  /-- NOT (R73). -/
  | not (dr sr : RegId) (ign : BitVec 6)
  /-- LD, PC-relative load (R74). -/
  | ld (dr : RegId) (off9 : BitVec 9)
  /-- LDI, indirect load (R75). -/
  | ldi (dr : RegId) (off9 : BitVec 9)
  /-- LDR, base-plus-offset load (R76). -/
  | ldr (dr baseR : RegId) (off6 : BitVec 6)
  /-- LEA, load effective address (R77). -/
  | lea (dr : RegId) (off9 : BitVec 9)
  /-- ST, PC-relative store (R78). -/
  | st (sr : RegId) (off9 : BitVec 9)
  /-- STI, indirect store (R79). -/
  | sti (sr : RegId) (off9 : BitVec 9)
  /-- STR, base-plus-offset store (R80). -/
  | str (sr baseR : RegId) (off6 : BitVec 6)
  /-- BR, conditional branch (R81). -/
  | br (n z p : Bool) (off9 : BitVec 9)
  /-- JMP, jump through a register; RET is JMP R7 (R82, R68). -/
  | jmp (ignHi : BitVec 3) (baseR : RegId) (ignLo : BitVec 6)
  /-- JSR, call with a PC-relative target (R83). -/
  | jsr (off11 : BitVec 11)
  /-- JSRR, call through a register (R84). -/
  | jsrr (ignHi : BitVec 2) (baseR : RegId) (ignLo : BitVec 6)
  /-- TRAP as the table's whole row (R85). The decoder gives the row below that refines it (DESIGN CHOICE, log entry 12). -/
  | trap (ign : BitVec 4) (vect8 : BitVec 8)
  /-- TRAP x20, GETC (R86). -/
  | trapGetc (ign : BitVec 4)
  /-- TRAP x21, OUT (R87). -/
  | trapOut (ign : BitVec 4)
  /-- TRAP x22, PUTS (R88). -/
  | trapPuts (ign : BitVec 4)
  /-- TRAP x23, IN (R89). -/
  | trapIn (ign : BitVec 4)
  /-- TRAP x24, PUTSP (R90). -/
  | trapPutsp (ign : BitVec 4)
  /-- TRAP x25, HALT (R91). -/
  | trapHalt (ign : BitVec 4)
  /-- TRAP with a vector outside x20 to x25 (R92). -/
  | trapUnknown (ign : BitVec 4) (vect8 : BitVec 8)
  /-- The reserved opcode 0x8 (R94). -/
  | reserved8 (ign : BitVec 12)
  /-- The reserved opcode 0xD (R94). -/
  | reservedD (ign : BitVec 12)
  deriving DecidableEq, Repr

end Sys2Proof
end

