-- ==== Sys2Proof/WellFormed.lean ====
section
/-! DEFINITION. Which instructions are in the form the decoder gives (spec/30_encoding.md R63): every word is one row,
and a TRAP word is its most special row (log entry 12). Every other field is exactly as wide as the word's field, so
nothing else can be ill formed. -/

namespace Sys2Proof

/-- The vectors with a built-in routine, 0x20 to 0x25 (44_trap.md R85). -/
def knownVector (v : BitVec 8) : Bool :=
  v == 0x20#8 || v == 0x21#8 || v == 0x22#8 || v == 0x23#8 || v == 0x24#8 || v == 0x25#8

/-- Well formed: not the unrefined TRAP row, and "unknown vector" only of a vector that is unknown (R92). -/
def Instr.wellFormed : Instr → Bool
  | .trap _ _ => false
  | .trapUnknown _ v => !knownVector v
  | .addReg _ _ _ _ => true
  | .addImm _ _ _ => true
  | .andReg _ _ _ _ => true
  | .andImm _ _ _ => true
  | .not _ _ _ => true
  | .ld _ _ => true
  | .ldi _ _ => true
  | .ldr _ _ _ => true
  | .lea _ _ => true
  | .st _ _ => true
  | .sti _ _ => true
  | .str _ _ _ => true
  | .br _ _ _ _ => true
  | .jmp _ _ _ => true
  | .jsr _ => true
  | .jsrr _ _ _ => true
  | .trapGetc _ => true
  | .trapOut _ => true
  | .trapPuts _ => true
  | .trapIn _ => true
  | .trapPutsp _ => true
  | .trapHalt _ => true
  | .reserved8 _ => true
  | .reservedD _ => true

end Sys2Proof
end

