-- ==== Sys2Proof/Decode.lean ====
section
/-! DEFINITION. The decoder and the encoder, both from the formats of spec/30_encoding.md R56 to R60. The decoder is
total (R63): no word is refused, a reserved opcode is an instruction of its own. -/

namespace Sys2Proof

/-- `w[lo+len-1 : lo]` (00_scope.md R7). -/
def bitField (w : Word) (lo len : Nat) : BitVec len := w.extractLsb' lo len

/-- `sext_N` of 00_scope.md R9: copies of the field's top bit above it. -/
def sext {n : Nat} (f : BitVec n) : Word := f.signExtend 16

/-- `zext_8` of 00_scope.md R9: a byte as a word. -/
def zext8 (b : Byte) : Word := b.setWidth 16

/-- `v[7:0]` (20_memory.md R37: OUT and PUTS write bits 7:0). -/
def lowByte (v : Word) : Byte := bitField v 0 8

/-- `v[15:8]`. -/
def highByte (v : Word) : Byte := bitField v 8 8

/-- Two bytes of an image as a word, the first the high one (20_memory.md R37(a)). -/
def wordOfBytes (b0 b1 : Byte) : Word := b0 ++ b1

/-- Bits 15:12 (R56). -/
def opcodeOf (w : Word) : BitVec 4 := bitField w 12 4

/-- The row that refines TRAP for a vector (44_trap.md R85). -/
def decodeTrap (ign : BitVec 4) (v : BitVec 8) : Instr :=
  if v = 0x20#8 then .trapGetc ign
  else if v = 0x21#8 then .trapOut ign
  else if v = 0x22#8 then .trapPuts ign
  else if v = 0x23#8 then .trapIn ign
  else if v = 0x24#8 then .trapPutsp ign
  else if v = 0x25#8 then .trapHalt ign
  else .trapUnknown ign v

/-- The instruction of a word: the opcode map of R56, refined by w[5] for ADD and AND and by w[11] for JSR, with the
fields of R58 and R59. -/
def decode (w : Word) : Instr :=
  match (opcodeOf w).toNat with
  | 0x0 => .br w[11] w[10] w[9] (bitField w 0 9)
  | 0x1 => if w[5] then .addImm (bitField w 9 3) (bitField w 6 3) (bitField w 0 5)
           else .addReg (bitField w 9 3) (bitField w 6 3) (bitField w 3 2) (bitField w 0 3)
  | 0x2 => .ld (bitField w 9 3) (bitField w 0 9)
  | 0x3 => .st (bitField w 9 3) (bitField w 0 9)
  | 0x4 => if w[11] then .jsr (bitField w 0 11)
           else .jsrr (bitField w 9 2) (bitField w 6 3) (bitField w 0 6)
  | 0x5 => if w[5] then .andImm (bitField w 9 3) (bitField w 6 3) (bitField w 0 5)
           else .andReg (bitField w 9 3) (bitField w 6 3) (bitField w 3 2) (bitField w 0 3)
  | 0x6 => .ldr (bitField w 9 3) (bitField w 6 3) (bitField w 0 6)
  | 0x7 => .str (bitField w 9 3) (bitField w 6 3) (bitField w 0 6)
  | 0x8 => .reserved8 (bitField w 0 12)
  | 0x9 => .not (bitField w 9 3) (bitField w 6 3) (bitField w 0 6)
  | 0xA => .ldi (bitField w 9 3) (bitField w 0 9)
  | 0xB => .sti (bitField w 9 3) (bitField w 0 9)
  | 0xC => .jmp (bitField w 9 3) (bitField w 6 3) (bitField w 0 6)
  | 0xD => .reservedD (bitField w 0 12)
  | 0xE => .lea (bitField w 9 3) (bitField w 0 9)
  | _ => decodeTrap (bitField w 8 4) (bitField w 0 8)

/-- The word of an instruction: the formats of R58 written out, top bits first. -/
def encode : Instr → Word
  | .addReg dr sr1 ign sr2 => 0b0001#4 ++ dr ++ sr1 ++ 0#1 ++ ign ++ sr2
  | .addImm dr sr1 imm5 => 0b0001#4 ++ dr ++ sr1 ++ 1#1 ++ imm5
  | .andReg dr sr1 ign sr2 => 0b0101#4 ++ dr ++ sr1 ++ 0#1 ++ ign ++ sr2
  | .andImm dr sr1 imm5 => 0b0101#4 ++ dr ++ sr1 ++ 1#1 ++ imm5
  | .not dr sr ign => 0b1001#4 ++ dr ++ sr ++ ign
  | .ld dr off9 => 0b0010#4 ++ dr ++ off9
  | .ldi dr off9 => 0b1010#4 ++ dr ++ off9
  | .ldr dr baseR off6 => 0b0110#4 ++ dr ++ baseR ++ off6
  | .lea dr off9 => 0b1110#4 ++ dr ++ off9
  | .st sr off9 => 0b0011#4 ++ sr ++ off9
  | .sti sr off9 => 0b1011#4 ++ sr ++ off9
  | .str sr baseR off6 => 0b0111#4 ++ sr ++ baseR ++ off6
  | .br n z p off9 => 0b0000#4 ++ BitVec.ofBool n ++ BitVec.ofBool z ++ BitVec.ofBool p ++ off9
  | .jmp ignHi baseR ignLo => 0b1100#4 ++ ignHi ++ baseR ++ ignLo
  | .jsr off11 => 0b0100#4 ++ 1#1 ++ off11
  | .jsrr ignHi baseR ignLo => 0b0100#4 ++ 0#1 ++ ignHi ++ baseR ++ ignLo
  | .trap ign v => 0b1111#4 ++ ign ++ v
  | .trapGetc ign => 0b1111#4 ++ ign ++ 0x20#8
  | .trapOut ign => 0b1111#4 ++ ign ++ 0x21#8
  | .trapPuts ign => 0b1111#4 ++ ign ++ 0x22#8
  | .trapIn ign => 0b1111#4 ++ ign ++ 0x23#8
  | .trapPutsp ign => 0b1111#4 ++ ign ++ 0x24#8
  | .trapHalt ign => 0b1111#4 ++ ign ++ 0x25#8
  | .trapUnknown ign v => 0b1111#4 ++ ign ++ v
  | .reserved8 ign => 0b1000#4 ++ ign
  | .reservedD ign => 0b1101#4 ++ ign

/-- The form the decoder gives an instruction's word: only the TRAP rows overlap (log entry 12). -/
def Instr.refined : Instr → Instr
  | .trap ign v => decodeTrap ign v
  | .trapUnknown ign v => decodeTrap ign v
  | i => i

/-- The opcode of an instruction in the map of R56. -/
def Instr.opcode : Instr → BitVec 4
  | .addReg _ _ _ _ => 0x1#4
  | .addImm _ _ _ => 0x1#4
  | .andReg _ _ _ _ => 0x5#4
  | .andImm _ _ _ => 0x5#4
  | .not _ _ _ => 0x9#4
  | .ld _ _ => 0x2#4
  | .ldi _ _ => 0xA#4
  | .ldr _ _ _ => 0x6#4
  | .lea _ _ => 0xE#4
  | .st _ _ => 0x3#4
  | .sti _ _ => 0xB#4
  | .str _ _ _ => 0x7#4
  | .br _ _ _ _ => 0x0#4
  | .jmp _ _ _ => 0xC#4
  | .jsr _ => 0x4#4
  | .jsrr _ _ _ => 0x4#4
  | .trap _ _ => 0xF#4
  | .trapGetc _ => 0xF#4
  | .trapOut _ => 0xF#4
  | .trapPuts _ => 0xF#4
  | .trapIn _ => 0xF#4
  | .trapPutsp _ => 0xF#4
  | .trapHalt _ => 0xF#4
  | .trapUnknown _ _ => 0xF#4
  | .reserved8 _ => 0x8#4
  | .reservedD _ => 0xD#4

/-- The decoder on a word as spec/opcode_table.json numbers its bits. An instruction is one word (R55), so the bits
from `nbits` up are 0 and there is no later word. -/
def decodeTableWord (nbits w : Nat) : Option Instr :=
  some (decode (BitVec.ofNat 16 (w % 2 ^ nbits)))

end Sys2Proof
end

