-- ==== Sys2Proof/Config.lean ====
section
/-! DEFINITION. The named parameters of spec/00_scope.md R6, the spec's defaults for them, and the free values:
opaque constants without a body, of which nothing can be proved. -/

namespace Sys2Proof.Config

/-- `COND_NONE_POLICY` (92_eei_decisions.md D2): what a BR with nzp ≠ 0 does while COND is NONE. -/
inductive CondNonePolicy where
  | fault
  | noBranch
  deriving DecidableEq, Repr

/-- `UNKNOWN_TRAP_POLICY` (D4): what a TRAP with an unknown vector does. -/
inductive UnknownTrapPolicy where
  | fault
  | nop
  deriving DecidableEq, Repr

/-- `JSRR_LINK_ORDER` (D11): whether JSRR writes R7 before or after it reads BaseR. -/
inductive JsrrLinkOrder where
  | linkFirst
  | targetFirst
  deriving DecidableEq, Repr

/-- `LOAD_OVERFLOW` (D14): what the loader does with a word past 0xFFFF. -/
inductive LoadOverflow where
  | wrap
  | truncate
  deriving DecidableEq, Repr, Inhabited

/-- The parameters of R6 that the model takes as an argument. A state carries them, and no step changes them. -/
structure Params where
  /-- `KBSR_ADDR`, the device status cell. -/
  kbsrAddr : Word
  /-- `KBDR_ADDR`, the device data cell; R6 asks that it differ from `KBSR_ADDR`. -/
  kbdrAddr : Word
  /-- `COND_NONE_POLICY`. -/
  condNonePolicy : CondNonePolicy
  /-- `UNKNOWN_TRAP_POLICY`. -/
  unknownTrapPolicy : UnknownTrapPolicy
  /-- `TRAP_INPUT_SETS_FLAGS`: whether GETC and IN set COND from R0. -/
  trapInputSetsFlags : Bool
  /-- `JSRR_LINK_ORDER`. -/
  jsrrLinkOrder : JsrrLinkOrder
  /-- `POLL_CONSUMES`: whether a ready poll takes the byte from the host's stream. -/
  pollConsumes : Bool
  /-- `HALT_NOTICE`, the bytes HALT writes. -/
  haltNotice : List Byte
  /-- `IN_PROMPT`, the bytes IN writes before its echo. -/
  inPrompt : List Byte
  /-- `LOAD_OVERFLOW`, used by the loader only. -/
  loadOverflow : LoadOverflow
  deriving DecidableEq, Repr

/-- OPEN in R6, no default (D8): a free value. -/
opaque trapInputSetsFlags : Bool

/-- OPEN in R6, no default (D13): a free value. -/
opaque haltNotice : List Byte

/-- OPEN in R6, no default (D13): a free value. -/
opaque inPrompt : List Byte

/-- OPEN in R6, no default (D14): a free value. -/
opaque loadOverflow : LoadOverflow

/-- The host's answer, "a byte is ready" or not, at a poll for which the state lists no draw (R28, R40: "That answer
is a draw"). The argument is `State.freeDraws`. A free value. -/
opaque pollReady : Nat → Bool

/-- R6's defaults, and the free values where R6 gives none. -/
def defaults : Params where
  kbsrAddr := 0xFE00#16
  kbdrAddr := 0xFE02#16
  condNonePolicy := .fault
  unknownTrapPolicy := .fault
  trapInputSetsFlags := trapInputSetsFlags
  jsrrLinkOrder := .linkFirst
  pollConsumes := true
  haltNotice := haltNotice
  inPrompt := inPrompt
  loadOverflow := loadOverflow

end Sys2Proof.Config
end

