-- ==== Sys2Proof/Machine/State.lean ====
section
/-! DEFINITION. The machine's state as plain data (spec/10_state.md R30), the fault records (60_exceptions.md R93), the
reasons a step can stop, and the state after reset (70_reset_and_hazards.md R103). -/

namespace Sys2Proof.Machine

/-- The condition register (10_state.md R21). -/
inductive Cond where
  /-- NONE: no flag-setting instruction has run yet (R24). -/
  | none
  /-- NEGATIVE. -/
  | n
  /-- ZERO. -/
  | z
  /-- POSITIVE. -/
  | p
  deriving DecidableEq, Repr

/-- The routine a TrapStringUnmodelled record names (R93). -/
inductive StringRoutine where
  | puts
  | putsp
  deriving DecidableEq, Repr

/-- A fault record of 60_exceptions.md R93: the kind, with the information recorded. -/
inductive FaultRecord where
  /-- Code 1, raised by the reserved opcodes (R94). -/
  | reservedOpcode (opcode : BitVec 4) (word addr : Word)
  /-- Code 2, raised by BR on COND = NONE (43_control.md R81). -/
  | condUnset (word addr : Word)
  /-- Code 3, raised by TRAP with an unknown vector (44_trap.md R92). -/
  | unknownTrapVector (vector : BitVec 8) (addr : Word)
  /-- Code 4, raised by PUTS and PUTSP (R88, R90); `addr` is the address the scan reached. -/
  | trapStringUnmodelled (routine : StringRoutine) (addr : Word)
  deriving DecidableEq, Repr

/-- The run status (10_state.md R27). -/
inductive Status where
  | running
  | halted
  | faulted (f : FaultRecord)
  deriving DecidableEq, Repr

/-- Memory as (address, cell) pairs. An address names a whole 16-bit cell (20_memory.md R34, R35). Unlisted cells read
0x0000, the reset contents. -/
abbrev Memory := List (Nat × Word)

/-- The state tuple of 10_state.md R30, then the model's own fields: the parameters a step depends on and the host's
input answers, which R30 keeps apart from the state. -/
structure State where
  /-- R0 to R7 (R15). -/
  regs : Vector Word 8
  /-- PC (R18). -/
  pc : Word
  /-- COND (R21). -/
  cond : Cond
  /-- M (20_memory.md R34), the device cells KBSR and KBDR among it (R26). -/
  mem : Memory
  /-- The run status (R27). -/
  status : Status
  /-- The bytes written to the host, oldest first (R29). -/
  out : List Byte
  /-- The parameters of 00_scope.md R6. No step changes them. The model's own field. -/
  params : Config.Params
  /-- The bytes the host has supplied and nothing has taken, next byte first (R28). The model's own field. -/
  input : List Byte
  /-- The host's answers at the coming polls, `true` for Ready (R28, R40). The model's own field. -/
  draws : List Bool
  /-- How many polls took the free value `Config.pollReady` for their answer. The model's own field. -/
  freeDraws : Nat
  deriving DecidableEq, Repr

/-- Why a step does not take place. -/
inductive Fault where
  /-- Raised by `step` in a state whose status is HALTED (R27: the core steps only while RUNNING). Safe: the spec's
  core takes no step either. -/
  | halted
  /-- Raised by `step` in a state whose status is FAULTED (60_exceptions.md R96). Safe, for the same reason. The fault
  that led there was a next state (R95). -/
  | faulted (f : FaultRecord)
  deriving DecidableEq, Repr

/-- Why an instruction has no meaning. -/
inductive Refusal where
  /-- Raised by an arm of `exec` that has no meaning yet; safe. No arm raises it: every instruction has its meaning. -/
  | notModelled (mnemonic : String)
  deriving DecidableEq, Repr

/-- The state after reset (70_reset_and_hazards.md R103), before any image is loaded (R104). The first six fields are
the spec's values; `input`, `draws` and `freeDraws` are DESIGN CHOICES (log entries 6 and 7). -/
def State.reset : State where
  regs := Vector.replicate 8 0#16
  pc := 0x3000#16
  cond := .none
  mem := []
  status := .running
  out := []
  params := Config.defaults
  input := []
  draws := []
  freeDraws := 0

end Sys2Proof.Machine
end

