-- ==== Sys2Proof/Machine/Ops.lean ====
section
/-! DEFINITION. The named operations over the state: one update per field, the access primitives of
spec/20_memory.md R39 to R43, the host channels (10_state.md R28, R29), the fetch (30_encoding.md R61), raising a fault
(60_exceptions.md R95) and holding (30_encoding.md R62). The core has no trap entry and no return from one (R99, R100);
raising a fault is its whole exception mechanism. -/

namespace Sys2Proof.Machine

/-! ### Memory as a list in canonical form -/

/-- The cell at an address; 0x0000 where nothing is listed (R34). -/
def Memory.read : Memory → Nat → Word
  | [], _ => 0#16
  | (k, v) :: m, a => if k = a then v else Memory.read m a

/-- A cell put at its place by address. -/
def Memory.insert : Memory → Nat → Word → Memory
  | [], a, v => [(a, v)]
  | (k, x) :: m, a, v => if a < k then (a, v) :: (k, x) :: m else (k, x) :: Memory.insert m a v

/-- The memory with one cell written. Writing 0x0000 removes the entry. -/
def Memory.write (m : Memory) (a : Nat) (v : Word) : Memory :=
  let rest := m.filter (fun c => c.1 != a)
  if v = 0#16 then rest else Memory.insert rest a v

/-- The canonical form: addresses strictly rising and below 65536, no cell 0x0000 listed. -/
abbrev Memory.wf (m : Memory) : Prop :=
  m.Pairwise (fun c d => c.1 < d.1) ∧ ∀ c ∈ m, c.1 < 65536 ∧ c.2 ≠ 0#16

/-! ### Registers and single fields -/

/-- `x[r]` (00_scope.md R10). -/
def State.reg (s : State) (r : RegId) : Word := s.regs[r.toNat]'(r.isLt)

/-- `x[r] <- v`. -/
def State.setReg (s : State) (r : RegId) (v : Word) : State :=
  { s with regs := s.regs.set r.toNat v r.isLt }

/-- `pc <- v`. -/
def State.setPc (s : State) (v : Word) : State := { s with pc := v }

/-- `cond <- c`. -/
def State.setCond (s : State) (c : Cond) : State := { s with cond := c }

/-- `status <- st`. -/
def State.setStatus (s : State) (st : Status) : State := { s with status := st }

/-- `out <- out ++ bs` (10_state.md R29). -/
def State.emit (s : State) (bs : List Byte) : State := { s with out := s.out ++ bs }

/-- The address of the instruction that runs: PC was incremented by the fetch (10_state.md R18). -/
def State.instrAddr (s : State) : Word := s.pc - 1#16

/-! ### Access primitives -/

/-- `RawRead(a)` (R39). -/
def State.rawRead (s : State) (a : Word) : Word := Memory.read s.mem a.toNat

/-- `RawWrite(a, v)` (R39). -/
def State.rawWrite (s : State) (a v : Word) : State := { s with mem := Memory.write s.mem a.toNat v }

/-- The host's choice, Ready or NotReady, at the coming poll (10_state.md R28): the next listed draw, and a free value
where none is listed (DESIGN CHOICE, log entry 7). -/
def State.nextDraw (s : State) : Bool :=
  match s.draws with
  | d :: _ => d
  | [] => Config.pollReady s.freeDraws

/-- The coming poll's draw taken. -/
def State.takeDraw (s : State) : State :=
  match s.draws with
  | _ :: ds => { s with draws := ds }
  | [] => { s with freeDraws := s.freeDraws + 1 }

/-- The host's answer to the coming poll: `some b` for Ready(b), where b is the next byte of the input stream
(70_reset_and_hazards.md R106), `none` for NotReady. With no byte supplied the answer is NotReady. -/
def State.pollAnswer (s : State) : Option Byte :=
  match s.input with
  | [] => none
  | b :: _ => if s.nextDraw then some b else none

/-- The next input byte taken from the stream. -/
def State.dropInput (s : State) : State := { s with input := s.input.tail }

/-- `Poll()` (R40). -/
def State.poll (s : State) : State :=
  match s.pollAnswer with
  | some b =>
    let t := (s.takeDraw.rawWrite s.params.kbsrAddr 0x8000#16).rawWrite s.params.kbdrAddr (zext8 b)
    if s.params.pollConsumes then t.dropInput else t
  | none => s.takeDraw.rawWrite s.params.kbsrAddr 0x0000#16

/-- The state in which `MemRead(a, 1)` takes its value: a read of the status cell polls first (R41). -/
def State.afterRead (s : State) (a : Word) : State :=
  if a = s.params.kbsrAddr then s.poll else s

/-- `MemRead(a, 1)` (R41): the value, and the state after the read. -/
def State.memRead (s : State) (a : Word) : Word × State :=
  ((s.afterRead a).rawRead a, s.afterRead a)

/-- `MemWrite(a, 1, v)` (R43): no side effect at any address. -/
def State.memWrite (s : State) (a v : Word) : State := s.rawWrite a v

/-! ### The host -/

/-- `InRead()` (10_state.md R28): the next input byte and the state without it; `none` while there is none. -/
def State.inRead (s : State) : Option (Byte × State) :=
  match s.input with
  | [] => none
  | b :: _ => some (b, s.dropInput)

/-- What the host can do to a running core between two steps (70_reset_and_hazards.md R106): supply further input
bytes, and settle further poll answers. No step does this. -/
def State.hostSupplies (s : State) (bytes : List Byte) (answers : List Bool) : State :=
  { s with input := s.input ++ bytes, draws := s.draws ++ answers }

/-! ### Outcomes -/

/-- The code of a fault record (60_exceptions.md R93). -/
def FaultRecord.code : FaultRecord → Nat
  | .reservedOpcode _ _ _ => 1
  | .condUnset _ _ => 2
  | .unknownTrapVector _ _ => 3
  | .trapStringUnmodelled _ _ => 4

/-- `raise Fault(f)` (60_exceptions.md R95): the status changes and nothing else. The fetch's PC increment and its poll
are in `s` already. -/
def raiseFault (f : FaultRecord) (s : State) : Host.Outcome State Fault Refusal :=
  .next (s.setStatus (.faulted f))

/-- `HOLD` (30_encoding.md R62): the step does not take place, and the same step is tried again. The fetch of a held
instruction had no effect but PC's increment, so PC goes back to the instruction's address (DEDUCED, log entry 8). -/
def hold (s : State) : Host.Outcome State Fault Refusal :=
  .next (s.setPc s.instrAddr)

/-- Why the core takes no step from this state: it steps only while RUNNING (10_state.md R27, 30_encoding.md R61). -/
def State.stopReason (s : State) : Option Fault :=
  match s.status with
  | .running => none
  | .halted => some .halted
  | .faulted f => some (.faulted f)

/-- The fetch (30_encoding.md R61): `w <- MemRead(pc, 1)`, then `pc <- pc + 1`. -/
def State.fetch (s : State) : Word × State :=
  ((s.memRead s.pc).1, (s.memRead s.pc).2.setPc (s.pc + 1#16))

end Sys2Proof.Machine
end

