-- ==== Sys2Proof/Machine/Flags.lean ====
section
/-! DEFINITION. The flag computations: setcc (spec/10_state.md R22), COND's 3-bit code (R21) and the branch test
(43_control.md R81). -/

namespace Sys2Proof.Machine

/-- The flag of a value (R22). -/
def condOf (v : Word) : Cond :=
  if v.msb then .n else if v = 0#16 then .z else .p

/-- `setcc(v)` (R22). -/
def State.setcc (s : State) (v : Word) : State := s.setCond (condOf v)

/-- `x[d] <- v; setcc(x[d])`: how every flag-setting instruction ends (R23). -/
def State.writeResult (s : State) (d : RegId) (v : Word) : State := (s.setReg d v).setcc v

/-- COND's 3-bit code for the branch test (R21). -/
def Cond.code : Cond → BitVec 3
  | .none => 0b000#3
  | .p => 0b001#3
  | .z => 0b010#3
  | .n => 0b100#3

/-- `w[11:9]` of a BR, from its condition bits (R59). -/
def nzpBits (n z p : Bool) : BitVec 3 := BitVec.ofBool n ++ BitVec.ofBool z ++ BitVec.ofBool p

/-- The branch test `(nzp & code(cond)) != 0` (R81). -/
def branchTaken (nzp : BitVec 3) (c : Cond) : Bool := nzp &&& c.code != 0b000#3

end Sys2Proof.Machine
end

