-- ==== Sys2Proof/Machine/Operands.lean ====
section
/-! DEFINITION. The operand forms of spec/30_encoding.md R59: immediates, PC-relative addresses, base-plus-offset
addresses and the pointer of the indirect forms. -/

namespace Sys2Proof.Machine

/-- imm5 as a value: `sext_5` (R59). -/
def imm5Value (f : BitVec 5) : Word := sext f

/-- `pc + sext_9(PCoffset9)`, PC already incremented (10_state.md R18). -/
def State.pcRel9 (s : State) (off : BitVec 9) : Word := s.pc + sext off

/-- `pc + sext_11(PCoffset11)`. -/
def State.pcRel11 (s : State) (off : BitVec 11) : Word := s.pc + sext off

/-- `x[BaseR] + sext_6(offset6)`. -/
def State.baseOffset (s : State) (baseR : RegId) (off : BitVec 6) : Word := s.reg baseR + sext off

/-- The pointer of LDI and STI, `MemRead(pc + sext_9(PCoffset9), 1)`, and the state after that read. -/
def State.pointer (s : State) (off : BitVec 9) : Word × State := s.memRead (s.pcRel9 off)

end Sys2Proof.Machine
end

