-- ==== Sys2Proof/Machine/Control.lean ====
section
/-! DEFINITION. BR, JMP, JSR and JSRR (spec/43_control.md). -/

namespace Sys2Proof.Machine

/-- BR (R81). With nzp = 000 COND is not read; otherwise COND = NONE follows `COND_NONE_POLICY`. -/
def execBr (n z p : Bool) (off9 : BitVec 9) (s : State) : Host.Outcome State Fault Refusal :=
  if nzpBits n z p = 0b000#3 then .next s
  else if s.cond = .none ∧ s.params.condNonePolicy = .fault then
    raiseFault (.condUnset (encode (.br n z p off9)) s.instrAddr) s
  else if branchTaken (nzpBits n z p) s.cond then .next (s.setPc (s.pcRel9 off9))
  else .next s

/-- JMP (R82). -/
def execJmp (_ignHi : BitVec 3) (baseR : RegId) (_ignLo : BitVec 6) (s : State) : Host.Outcome State Fault Refusal :=
  .next (s.setPc (s.reg baseR))

/-- JSR (R83). -/
def execJsr (off11 : BitVec 11) (s : State) : Host.Outcome State Fault Refusal :=
  .next ((s.setReg 7#3 s.pc).setPc (s.pcRel11 off11))

/-- JSRR (R84): under `link_first` BaseR is read after R7 is written. -/
def execJsrr (_ignHi : BitVec 2) (baseR : RegId) (_ignLo : BitVec 6) (s : State) : Host.Outcome State Fault Refusal :=
  match s.params.jsrrLinkOrder with
  | .linkFirst => .next ((s.setReg 7#3 s.pc).setPc ((s.setReg 7#3 s.pc).reg baseR))
  | .targetFirst => .next ((s.setReg 7#3 s.pc).setPc (s.reg baseR))

end Sys2Proof.Machine
end

