-- ==== Sys2Proof/Machine/Loads.lean ====
section
/-! DEFINITION. LD, LDI, LDR and LEA (spec/41_loads.md). -/

namespace Sys2Proof.Machine

/-- `x[d] <- MemRead(ea, 1); setcc(x[d])`, the end of LD, LDI and LDR. -/
def State.loadResult (s : State) (d : RegId) (ea : Word) : State :=
  (s.memRead ea).2.writeResult d (s.memRead ea).1

/-- LD (R74). -/
def execLd (dr : RegId) (off9 : BitVec 9) (s : State) : Host.Outcome State Fault Refusal :=
  .next (s.loadResult dr (s.pcRel9 off9))

/-- LDI (R75): the second read comes after the first. -/
def execLdi (dr : RegId) (off9 : BitVec 9) (s : State) : Host.Outcome State Fault Refusal :=
  .next ((s.pointer off9).2.loadResult dr (s.pointer off9).1)

/-- LDR (R76). -/
def execLdr (dr baseR : RegId) (off6 : BitVec 6) (s : State) : Host.Outcome State Fault Refusal :=
  .next (s.loadResult dr (s.baseOffset baseR off6))

/-- LEA (R77): no memory access; it sets COND. -/
def execLea (dr : RegId) (off9 : BitVec 9) (s : State) : Host.Outcome State Fault Refusal :=
  .next (s.writeResult dr (s.pcRel9 off9))

end Sys2Proof.Machine
end

