-- ==== Sys2Proof/Machine/Reserved.lean ====
section
/-! DEFINITION. The reserved opcodes 0x8 and 0xD (spec/60_exceptions.md R94). -/

namespace Sys2Proof.Machine

/-- ReservedOpcode for the word `w` (R94). -/
def reservedFault (w : Word) (s : State) : Host.Outcome State Fault Refusal :=
  raiseFault (.reservedOpcode (opcodeOf w) w s.instrAddr) s

/-- Opcode 0x8 (R94). -/
def execReserved8 (ign : BitVec 12) (s : State) : Host.Outcome State Fault Refusal :=
  reservedFault (encode (.reserved8 ign)) s

/-- Opcode 0xD (R94). -/
def execReservedD (ign : BitVec 12) (s : State) : Host.Outcome State Fault Refusal :=
  reservedFault (encode (.reservedD ign)) s

end Sys2Proof.Machine
end

