-- ==== Sys2Proof/Machine/Stores.lean ====
section
/-! DEFINITION. ST, STI and STR (spec/42_stores.md). -/

namespace Sys2Proof.Machine

/-- ST (R78). -/
def execSt (sr : RegId) (off9 : BitVec 9) (s : State) : Host.Outcome State Fault Refusal :=
  .next (s.memWrite (s.pcRel9 off9) (s.reg sr))

/-- STI (R79): the pointer read comes before the write. -/
def execSti (sr : RegId) (off9 : BitVec 9) (s : State) : Host.Outcome State Fault Refusal :=
  .next ((s.pointer off9).2.memWrite (s.pointer off9).1 (s.reg sr))

/-- STR (R80). -/
def execStr (sr baseR : RegId) (off6 : BitVec 6) (s : State) : Host.Outcome State Fault Refusal :=
  .next (s.memWrite (s.baseOffset baseR off6) (s.reg sr))

end Sys2Proof.Machine
end

