-- ==== Sys2Proof/Machine/Trap.lean ====
section
/-! DEFINITION. TRAP and its built-in routines (spec/44_trap.md). Each routine is one operation, which the routine's
row and the whole TRAP row share. -/

namespace Sys2Proof.Machine

/-- `x[0] <- zext_8(b); if TRAP_INPUT_SETS_FLAGS: setcc(x[0])`, the end of GETC and IN (R86, R89). -/
def State.inputResult (s : State) (b : Byte) : State :=
  if s.params.trapInputSetsFlags then s.writeResult 0#3 (zext8 b) else s.setReg 0#3 (zext8 b)

/-- GETC (R86): holds while there is no input. -/
def routineGetc (s : State) : Host.Outcome State Fault Refusal :=
  match s.inRead with
  | some (b, t) => .next (t.inputResult b)
  | none => hold s

/-- OUT (R87). -/
def routineOut (s : State) : Host.Outcome State Fault Refusal :=
  .next (s.emit [lowByte (s.reg 0#3)])

/-- The bytes PUTS writes for a cell: the low one (R88). -/
def putsBytes (c : Word) : List Byte := [lowByte c]

/-- The bytes PUTSP writes for a cell: the low one, then the high one if it is not zero (R90). -/
def putspBytes (c : Word) : List Byte :=
  if highByte c = 0#8 then [lowByte c] else [lowByte c, highByte c]

/-- The scan of PUTS and PUTSP from `a` (R88, R90), where `left` cells remain up to 0xFFFF. It gives the bytes to write,
or the address reached when the scan meets `KBSR_ADDR` or would go past 0xFFFF. -/
def scanString (bytes : Word → List Byte) (s : State) : Nat → Word → Except Word (List Byte)
  | 0, _ => .error 0xFFFF#16
  | left + 1, a =>
    if a = s.params.kbsrAddr then .error a
    else if s.rawRead a = 0#16 then .ok []
    else
      match scanString bytes s left (a + 1#16) with
      | .ok rest => .ok (bytes (s.rawRead a) ++ rest)
      | .error e => .error e

/-- PUTS and PUTSP: the scan from R0, then the bytes to the host or the fault. -/
def routineString (r : StringRoutine) (bytes : Word → List Byte) (s : State) : Host.Outcome State Fault Refusal :=
  match scanString bytes s (0x10000 - (s.reg 0#3).toNat) (s.reg 0#3) with
  | .ok buf => .next (s.emit buf)
  | .error a => raiseFault (.trapStringUnmodelled r a) s

/-- PUTS (R88). -/
def routinePuts (s : State) : Host.Outcome State Fault Refusal := routineString .puts putsBytes s

/-- PUTSP (R90). -/
def routinePutsp (s : State) : Host.Outcome State Fault Refusal := routineString .putsp putspBytes s

/-- IN (R89): prompt, byte and echo in one step; holds while there is no input. -/
def routineIn (s : State) : Host.Outcome State Fault Refusal :=
  match s.inRead with
  | some (b, t) => .next ((t.inputResult b).emit (s.params.inPrompt ++ [b]))
  | none => hold s

/-- HALT (R91). -/
def routineHalt (s : State) : Host.Outcome State Fault Refusal :=
  .next ((s.emit s.params.haltNotice).setStatus .halted)

/-- An unknown vector (R92). -/
def routineUnknown (v : BitVec 8) (s : State) : Host.Outcome State Fault Refusal :=
  match s.params.unknownTrapPolicy with
  | .fault => raiseFault (.unknownTrapVector v s.instrAddr) s
  | .nop => .next s

/-- TRAP, the whole row: the dispatch of R85. -/
def execTrap (_ign : BitVec 4) (v : BitVec 8) (s : State) : Host.Outcome State Fault Refusal :=
  if v = 0x20#8 then routineGetc s
  else if v = 0x21#8 then routineOut s
  else if v = 0x22#8 then routinePuts s
  else if v = 0x23#8 then routineIn s
  else if v = 0x24#8 then routinePutsp s
  else if v = 0x25#8 then routineHalt s
  else routineUnknown v s

/-- TRAP x20 (R86). -/
def execTrapGetc (_ign : BitVec 4) (s : State) : Host.Outcome State Fault Refusal := routineGetc s

/-- TRAP x21 (R87). -/
def execTrapOut (_ign : BitVec 4) (s : State) : Host.Outcome State Fault Refusal := routineOut s

/-- TRAP x22 (R88). -/
def execTrapPuts (_ign : BitVec 4) (s : State) : Host.Outcome State Fault Refusal := routinePuts s

/-- TRAP x23 (R89). -/
def execTrapIn (_ign : BitVec 4) (s : State) : Host.Outcome State Fault Refusal := routineIn s

/-- TRAP x24 (R90). -/
def execTrapPutsp (_ign : BitVec 4) (s : State) : Host.Outcome State Fault Refusal := routinePutsp s

/-- TRAP x25 (R91). -/
def execTrapHalt (_ign : BitVec 4) (s : State) : Host.Outcome State Fault Refusal := routineHalt s

/-- TRAP with an unknown vector (R92). -/
def execTrapUnknown (_ign : BitVec 4) (v : BitVec 8) (s : State) : Host.Outcome State Fault Refusal :=
  routineUnknown v s

end Sys2Proof.Machine
end

