-- ==== Sys2Proof/Machine/Dispatch.lean ====
section
/-! DEFINITION. The dispatch: one arm per constructor, on the state after the fetch (spec/30_encoding.md R61). -/

namespace Sys2Proof.Machine

def exec (i : Instr) (s : State) : Host.Outcome State Fault Refusal :=
  match i with
  | .addReg dr sr1 ign sr2 => Sys2Proof.Machine.execAddReg dr sr1 ign sr2 s
  | .addImm dr sr1 imm5 => Sys2Proof.Machine.execAddImm dr sr1 imm5 s
  | .andReg dr sr1 ign sr2 => Sys2Proof.Machine.execAndReg dr sr1 ign sr2 s
  | .andImm dr sr1 imm5 => Sys2Proof.Machine.execAndImm dr sr1 imm5 s
  | .not dr sr ign => Sys2Proof.Machine.execNot dr sr ign s
  | .ld dr off9 => Sys2Proof.Machine.execLd dr off9 s
  | .ldi dr off9 => Sys2Proof.Machine.execLdi dr off9 s
  | .ldr dr baseR off6 => Sys2Proof.Machine.execLdr dr baseR off6 s
  | .lea dr off9 => Sys2Proof.Machine.execLea dr off9 s
  | .st sr off9 => Sys2Proof.Machine.execSt sr off9 s
  | .sti sr off9 => Sys2Proof.Machine.execSti sr off9 s
  | .str sr baseR off6 => Sys2Proof.Machine.execStr sr baseR off6 s
  | .br n z p off9 => Sys2Proof.Machine.execBr n z p off9 s
  | .jmp ignHi baseR ignLo => Sys2Proof.Machine.execJmp ignHi baseR ignLo s
  | .jsr off11 => Sys2Proof.Machine.execJsr off11 s
  | .jsrr ignHi baseR ignLo => Sys2Proof.Machine.execJsrr ignHi baseR ignLo s
  | .trap ign v => Sys2Proof.Machine.execTrap ign v s
  | .trapGetc ign => Sys2Proof.Machine.execTrapGetc ign s
  | .trapOut ign => Sys2Proof.Machine.execTrapOut ign s
  | .trapPuts ign => Sys2Proof.Machine.execTrapPuts ign s
  | .trapIn ign => Sys2Proof.Machine.execTrapIn ign s
  | .trapPutsp ign => Sys2Proof.Machine.execTrapPutsp ign s
  | .trapHalt ign => Sys2Proof.Machine.execTrapHalt ign s
  | .trapUnknown ign v => Sys2Proof.Machine.execTrapUnknown ign v s
  | .reserved8 ign => Sys2Proof.Machine.execReserved8 ign s
  | .reservedD ign => Sys2Proof.Machine.execReservedD ign s

end Sys2Proof.Machine
end

