-- ==== Sys2Proof/Machine/Step.lean ====
section
/-! DEFINITION. One step of the machine: fetch, increment, decode, execute (spec/30_encoding.md R61). -/

namespace Sys2Proof.Machine

/-- One step. It takes place only while the status is RUNNING. -/
def step (s : State) : Host.Outcome State Fault Refusal :=
  match s.stopReason with
  | some r => .fault r
  | none => exec (decode s.fetch.1) s.fetch.2

/-- `s` with the table word `w` where `step` fetches next. The core fetches only while RUNNING, so the status is set
RUNNING; and a fetch at `KBSR_ADDR` reads what its poll wrote and never a stored word (20_memory.md R41), so there, and
only there, PC first moves to the next cell (DESIGN CHOICE, log entry 19). -/
def State.withFetchWord (s : State) (nbits w : Nat) : State :=
  let t := if s.pc = s.params.kbsrAddr then s.setPc (s.pc + 1#16) else s
  (t.rawWrite t.pc (BitVec.ofNat 16 (w % 2 ^ nbits))).setStatus .running

end Sys2Proof.Machine
end

