-- ==== Sys2Proof/Machine/Loader.lean ====
section
/-! DEFINITION. The image load that the host does between reset and the first step (spec/70_reset_and_hazards.md
R104). It is no part of a step: the loader is outside the core (00_scope.md R4(a)), and the spec gives the image format
because it fixes the launch memory. -/

namespace Sys2Proof.Machine

/-- An image's bytes as big-endian words; `none` where a byte is left over (DESIGN CHOICE, log entry 20). -/
def imageWords : List Byte → Option (List Word)
  | [] => some []
  | [_] => none
  | b0 :: b1 :: rest => (imageWords rest).map (wordOfBytes b0 b1 :: ·)

/-- `M[a] <- v` for each word in order, from address `a`, with `LOAD_OVERFLOW` past 0xFFFF. -/
def placeWords (ov : Config.LoadOverflow) : Memory → Nat → List Word → Memory
  | m, _, [] => m
  | m, a, v :: vs =>
    if a < 65536 then placeWords ov (Memory.write m a v) (a + 1) vs
    else
      match ov with
      | .wrap => placeWords ov (Memory.write m (a % 65536) v) (a + 1) vs
      | .truncate => m

/-- One image: the first word is the origin, the rest are copied from it on. `none` is a load failure. -/
def State.loadImage (s : State) (image : List Byte) : Option State :=
  match imageWords image with
  | some (origin :: vs) => some { s with mem := placeWords s.params.loadOverflow s.mem origin.toNat vs }
  | _ => none

/-- Several images in order, later ones over earlier ones; any failure means that execution never begins. -/
def State.loadImages : State → List (List Byte) → Option State
  | s, [] => some s
  | s, image :: images =>
    match s.loadImage image with
    | some t => t.loadImages images
    | none => none

end Sys2Proof.Machine
end

