-- ==== Sys2Proof/Safety.lean ====
section
/-! DEFINITION. What counts as a good state and a normal end, and the words in which the claims say what an instruction
changes and what it leaves alone. Everything here is stated through the model's reads, none of it through a meaning. -/

namespace Sys2Proof.Machine

/-- The invariant: memory in canonical form, and the device cells at two addresses (00_scope.md R6). -/
abbrev State.Inv (s : State) : Prop := Memory.wf s.mem ∧ s.params.kbsrAddr ≠ s.params.kbdrAddr

/-- A run ends normally only in a HALTED state (70_reset_and_hazards.md R108). -/
abbrev State.endedNormally (s : State) : Prop := s.status = .halted

/-- COND as R22 gives it for a value. -/
def CondIs (v : Word) (c : Cond) : Prop :=
  (32768 ≤ v.toNat ∧ c = .n) ∨ (v.toNat = 0 ∧ c = .z) ∨ (0 < v.toNat ∧ v.toNat < 32768 ∧ c = .p)

/-- Every general register is unchanged. -/
def SameRegs (s t : State) : Prop := ∀ r, t.reg r = s.reg r

/-- Every general register but `d` is unchanged. -/
def SameRegsBut (d : RegId) (s t : State) : Prop := ∀ r, r ≠ d → t.reg r = s.reg r

/-- Every cell of memory is unchanged. -/
def SameMem (s t : State) : Prop := ∀ a, t.rawRead a = s.rawRead a

/-- The host's stream, its coming poll answers and the count of free answers are unchanged. -/
def SameHost (s t : State) : Prop := t.input = s.input ∧ t.draws = s.draws ∧ t.freeDraws = s.freeDraws

/-- The run status, the output and the parameters are unchanged. -/
def SameControl (s t : State) : Prop := t.status = s.status ∧ t.out = s.out ∧ t.params = s.params

/-- From `s` to `t`, register `d` got `v` and COND its flag; the other registers, PC, status, output and parameters are
unchanged. -/
def ResultWritten (s t : State) (d : RegId) (v : Word) : Prop :=
  t.reg d = v ∧ SameRegsBut d s t ∧ CondIs v t.cond ∧ t.pc = s.pc ∧ SameControl s t

/-- From `s` to `t`, the cell `a` got `v`; every other cell, every register, COND, PC, status, output, parameters and
host are unchanged. -/
def CellStored (s t : State) (a v : Word) : Prop :=
  t.rawRead a = v ∧ (∀ b, b ≠ a → t.rawRead b = s.rawRead b) ∧
    SameRegs s t ∧ t.cond = s.cond ∧ t.pc = s.pc ∧ SameControl s t ∧ SameHost s t

/-- From `s` to `t`, one input byte `b` was taken into R0 (44_trap.md R86): COND follows `TRAP_INPUT_SETS_FLAGS`; the
other registers, PC, memory, status, parameters and poll answers are unchanged. -/
def InputTaken (s t : State) (b : Byte) : Prop :=
  (t.reg 0#3).toNat = b.toNat ∧ SameRegsBut 0#3 s t ∧
    (s.params.trapInputSetsFlags = true → CondIs (t.reg 0#3) t.cond) ∧
    (s.params.trapInputSetsFlags = false → t.cond = s.cond) ∧
    t.pc = s.pc ∧ SameMem s t ∧ t.status = s.status ∧ t.params = s.params ∧
    t.draws = s.draws ∧ t.freeDraws = s.freeDraws

/-- The cells from `a` on hold the words of `str`, none of them 0x0000, and then 0x0000; the scan stays below 0x10000
and off the status cell. What PUTS and PUTSP complete on (44_trap.md R88, R90). -/
def StringAt (s : State) (a : Word) (str : List Word) : Prop :=
  a.toNat + str.length < 65536 ∧ (∀ w ∈ str, w ≠ 0#16) ∧
    (∀ j, (h : j < str.length) → s.rawRead (a + BitVec.ofNat 16 j) = str[j]) ∧
    s.rawRead (a + BitVec.ofNat 16 str.length) = 0#16 ∧
    ∀ j, j ≤ str.length → a + BitVec.ofNat 16 j ≠ s.params.kbsrAddr

/-- The `k` cells from `a` on hold no 0x0000 and none of them is the status cell: a scan runs over them. -/
def ScannedOver (s : State) (a : Word) (k : Nat) : Prop :=
  ∀ j, j < k → s.rawRead (a + BitVec.ofNat 16 j) ≠ 0#16 ∧ a + BitVec.ofNat 16 j ≠ s.params.kbsrAddr

/-- The scan from `a` stops at the address `e` (R88, R90): it reaches the status cell there, or it runs over the last
cell, 0xFFFF. -/
def ScanStopsAt (s : State) (a e : Word) : Prop :=
  (∃ k, a.toNat + k < 65536 ∧ ScannedOver s a k ∧ e = a + BitVec.ofNat 16 k ∧ e = s.params.kbsrAddr) ∨
    (ScannedOver s a (65536 - a.toNat) ∧ e = 0xFFFF#16)

/-- The bytes PUTSP writes for a cell (R90). -/
def packedBytes (w : Word) : List Byte :=
  BitVec.ofNat 8 w.toNat :: (if w.toNat / 256 = 0 then [] else [BitVec.ofNat 8 (w.toNat / 256)])

/-- A BR's condition bits match COND (43_control.md R81). -/
def CondMatches (n z p : Bool) (c : Cond) : Prop :=
  (n = true ∧ c = .n) ∨ (z = true ∧ c = .z) ∨ (p = true ∧ c = .p)

/-- The bits of a word that its instruction ignores: those marked `-` in 30_encoding.md R58. -/
def ignoredMask (w : Word) : Word :=
  match (w >>> 12).toNat with
  | 0x1 => if w.getLsbD 5 then 0x0000#16 else 0x0018#16
  | 0x5 => if w.getLsbD 5 then 0x0000#16 else 0x0018#16
  | 0x4 => if w.getLsbD 11 then 0x0000#16 else 0x063F#16
  | 0x8 => 0x0FFF#16
  | 0x9 => 0x003F#16
  | 0xC => 0x0E3F#16
  | 0xD => 0x0FFF#16
  | 0xF => 0x0F00#16
  | _ => 0x0000#16

end Sys2Proof.Machine

namespace Sys2Proof

/-- The register an instruction writes, by the table of 10_state.md R16. -/
def Instr.writesReg : Instr → Option RegId
  | .addReg d _ _ _ => some d
  | .addImm d _ _ => some d
  | .andReg d _ _ _ => some d
  | .andImm d _ _ => some d
  | .not d _ _ => some d
  | .ld d _ => some d
  | .ldi d _ => some d
  | .ldr d _ _ => some d
  | .lea d _ => some d
  | .st _ _ => none
  | .sti _ _ => none
  | .str _ _ _ => none
  | .br _ _ _ _ => none
  | .jmp _ _ _ => none
  | .jsr _ => some 7#3
  | .jsrr _ _ _ => some 7#3
  | .trap _ v => if v = 0x20#8 ∨ v = 0x23#8 then some 0#3 else none
  | .trapGetc _ => some 0#3
  | .trapOut _ => none
  | .trapPuts _ => none
  | .trapIn _ => some 0#3
  | .trapPutsp _ => none
  | .trapHalt _ => none
  | .trapUnknown _ _ => none
  | .reserved8 _ => none
  | .reservedD _ => none

/-- The register whose new value sets COND, for the instructions that always write COND (R23). -/
def Instr.setsFlagsFrom : Instr → Option RegId
  | .addReg d _ _ _ => some d
  | .addImm d _ _ => some d
  | .andReg d _ _ _ => some d
  | .andImm d _ _ => some d
  | .not d _ _ => some d
  | .ld d _ => some d
  | .ldi d _ => some d
  | .ldr d _ _ => some d
  | .lea d _ => some d
  | _ => none

/-- GETC and IN, as routines or through the whole TRAP row. -/
def Instr.readsInput : Instr → Bool
  | .trapGetc _ => true
  | .trapIn _ => true
  | .trap _ v => v == 0x20#8 || v == 0x23#8
  | _ => false

/-- OUT, PUTS, IN, PUTSP and HALT, the writers of `out` (R29), as routines or through the whole TRAP row. -/
def Instr.writesOut : Instr → Bool
  | .trapOut _ => true
  | .trapPuts _ => true
  | .trapIn _ => true
  | .trapPutsp _ => true
  | .trapHalt _ => true
  | .trap _ v => v == 0x21#8 || v == 0x22#8 || v == 0x23#8 || v == 0x24#8 || v == 0x25#8
  | _ => false

end Sys2Proof
end

