-- ==== Sys2Proof/Certificates/Slice0/Obligations.lean ====
section
/-! DEFINITION. The statements for the provers. Each docstring names the rule of spec/ that the statement formalises.
In every statement about `exec` the state `s` is the one after the fetch, so `s.pc` is the instruction's address + 1
(10_state.md R18). -/

open Sys2Proof Sys2Proof.Machine

/-! ### Encoding -/

/-- Sample words of spec/95_test_vectors.md, one of every family. -/
def Obligations.SampleWordsDecodeAsWritten : Prop :=
  decode 0x1642#16 = .addReg 3#3 1#3 0#2 2#3 ∧ decode 0x1025#16 = .addImm 0#3 0#3 5#5 ∧
  decode 0x5042#16 = .andReg 0#3 1#3 0#2 2#3 ∧ decode 0x5270#16 = .andImm 1#3 1#3 0b10000#5 ∧
  decode 0x997F#16 = .not 4#3 5#3 0b111111#6 ∧ decode 0xA402#16 = .ldi 2#3 2#9 ∧
  decode 0x68FF#16 = .ldr 4#3 3#3 0b111111#6 ∧ decode 0x320F#16 = .st 1#3 0xF#9 ∧
  decode 0x03FD#16 = .br false false true 0x1FD#9 ∧ decode 0xC1C0#16 = .jmp 0#3 7#3 0#6 ∧
  decode 0x4802#16 = .jsr 2#11 ∧ decode 0x40C0#16 = .jsrr 0#2 3#3 0#6 ∧
  decode 0xFF25#16 = .trapHalt 0xF#4 ∧ decode 0xF026#16 = .trapUnknown 0#4 0x26#8 ∧
  decode 0xDFFF#16 = .reservedD 0xFFF#12

/-- Decoding an encoded instruction gives it back, with every operand at every value (30_encoding.md R58, R59); of an
instruction that is not in the decoder's form (the whole TRAP row) it gives the row that refines it (44_trap.md R85). -/
def Obligations.DecodeOfEncodeIsIdentity : Prop :=
  (∀ i : Instr, i.wellFormed = true → decode (encode i) = i) ∧ ∀ i : Instr, decode (encode i) = i.refined

/-- Every one of the 65536 words decodes to a well-formed instruction whose word it is: no bit is dropped (R63). -/
def Obligations.EncodeOfDecodeIsIdentity : Prop :=
  ∀ w : Word, (decode w).wellFormed = true ∧ encode (decode w) = w

/-- R56: the opcode map, on `word >> 12`, refined by w[5] and w[11]. -/
def Obligations.DecodeFollowsOpcodeMap : Prop :=
  ∀ w : Word,
    match (w >>> 12).toNat with
    | 0x0 => ∃ n z p off, decode w = .br n z p off
    | 0x1 => if w.getLsbD 5 then ∃ d a imm, decode w = .addImm d a imm else ∃ d a g b, decode w = .addReg d a g b
    | 0x2 => ∃ d off, decode w = .ld d off
    | 0x3 => ∃ r off, decode w = .st r off
    | 0x4 => if w.getLsbD 11 then ∃ off, decode w = .jsr off else ∃ g b h, decode w = .jsrr g b h
    | 0x5 => if w.getLsbD 5 then ∃ d a imm, decode w = .andImm d a imm else ∃ d a g b, decode w = .andReg d a g b
    | 0x6 => ∃ d b off, decode w = .ldr d b off
    | 0x7 => ∃ r b off, decode w = .str r b off
    | 0x8 => ∃ g, decode w = .reserved8 g
    | 0x9 => ∃ d a g, decode w = .not d a g
    | 0xA => ∃ d off, decode w = .ldi d off
    | 0xB => ∃ r off, decode w = .sti r off
    | 0xC => ∃ g b h, decode w = .jmp g b h
    | 0xD => ∃ g, decode w = .reservedD g
    | 0xE => ∃ d off, decode w = .lea d off
    | _ => ∃ g v, decode w = Instr.refined (.trap g v)

/-- R60, R58: two words that differ only in bits their instruction ignores act alike; for a reserved opcode
both raise ReservedOpcode with the same opcode, the one in bits 15:12, and the same address, and each record keeps its
own word (R93, R94). -/
def Obligations.IgnoredBitsHaveNoEffect : Prop :=
  ∀ (w w' : Word) (s : State), w &&& ~~~ ignoredMask w = w' &&& ~~~ ignoredMask w →
    ((w >>> 12 ≠ 0x8#16 ∧ w >>> 12 ≠ 0xD#16) → exec (decode w) s = exec (decode w') s) ∧
    ((w >>> 12 = 0x8#16 ∨ w >>> 12 = 0xD#16) →
      ∃ op : BitVec 4, op.toNat = (w >>> 12).toNat ∧
        exec (decode w) s = .next { s with status := .faulted (.reservedOpcode op w (s.pc - 1#16)) } ∧
        exec (decode w') s = .next { s with status := .faulted (.reservedOpcode op w' (s.pc - 1#16)) })

/-! ### Values and flags -/

/-- R9: `sext_N` for the four widths, and `zext_N` for the one width the core zero-extends, as the rule's formulas. -/
def Obligations.SignExtensionFillsHigherBits : Prop :=
  (∀ f : BitVec 5, (sext f).toNat = if f.getLsbD 4 then f.toNat + (65536 - 2 ^ 5) else f.toNat) ∧
  (∀ f : BitVec 6, (sext f).toNat = if f.getLsbD 5 then f.toNat + (65536 - 2 ^ 6) else f.toNat) ∧
  (∀ f : BitVec 9, (sext f).toNat = if f.getLsbD 8 then f.toNat + (65536 - 2 ^ 9) else f.toNat) ∧
  (∀ f : BitVec 11, (sext f).toNat = if f.getLsbD 10 then f.toNat + (65536 - 2 ^ 11) else f.toNat) ∧
  (∀ b : Byte, (zext8 b).toNat = b.toNat)

/-- R22: setcc writes exactly one of N, Z and P by the value, whatever COND held, and nothing else; a flag-setting end
of an instruction calls it on the value just written to the register. -/
def Obligations.SetccClassifiesTheValue : Prop :=
  ∀ (s : State) (v : Word),
    CondIs v (s.setcc v).cond ∧ (∀ c, (s.setCond c).setcc v = s.setcc v) ∧
    (∀ d, s.writeResult d v = (s.setReg d v).setcc ((s.setReg d v).reg d)) ∧
    SameRegs s (s.setcc v) ∧ SameMem s (s.setcc v) ∧ (s.setcc v).pc = s.pc ∧
    SameControl s (s.setcc v) ∧ SameHost s (s.setcc v)

/-- R23: which instructions write COND, and from which register. -/
def Obligations.CondWrittenOnlyByFlagSetters : Prop :=
  ∀ (i : Instr) (s t : State), exec i s = .next t →
    (∀ d, i.setsFlagsFrom = some d → CondIs (t.reg d) t.cond) ∧
    (i.readsInput = true → s.input ≠ [] → s.params.trapInputSetsFlags = true → CondIs (t.reg 0#3) t.cond) ∧
    (i.readsInput = true → (s.input = [] ∨ s.params.trapInputSetsFlags = false) → t.cond = s.cond) ∧
    (i.setsFlagsFrom = none → i.readsInput = false → t.cond = s.cond)

/-- R23, its last sentence: an instruction that is no BR does, but for COND itself, the same whatever COND holds. -/
def Obligations.OnlyBranchReadsCond : Prop :=
  ∀ (i : Instr) (s t : State) (c : Cond), (∀ n z p off, i ≠ .br n z p off) → exec i s = .next t →
    ∃ c', exec i (s.setCond c) = .next (t.setCond c')

/-- R24: nothing sets COND back to NONE. -/
def Obligations.CondNeverReturnsToNone : Prop :=
  ∀ s t : State, s.cond ≠ .none → step s = .next t → t.cond ≠ .none

/-! ### Memory -/

/-- R39: RawRead gives the cell; RawWrite sets it; neither has a side effect. In every state, canonical or not. -/
def Obligations.RawWriteSetsOneCell : Prop :=
  ∀ (s : State) (a v : Word), CellStored s (s.rawWrite a v) a v

/-- R40: the poll, by the host's answer. A ready answer writes 0x8000 to the status cell and the byte to the data cell,
and takes the byte from the stream when `POLL_CONSUMES`; a not-ready answer writes 0x0000 to the status cell. Every
other cell, the registers, PC, COND, status, output and parameters are unchanged. -/
def Obligations.PollWritesDeviceCells : Prop :=
  ∀ s : State, s.params.kbsrAddr ≠ s.params.kbdrAddr →
    SameRegs s s.poll ∧ s.poll.pc = s.pc ∧ s.poll.cond = s.cond ∧ SameControl s s.poll ∧
    (∀ b, s.pollAnswer = some b →
      s.poll.rawRead s.params.kbsrAddr = 0x8000#16 ∧
      (s.poll.rawRead s.params.kbdrAddr).toNat = b.toNat ∧
      (∀ a, a ≠ s.params.kbsrAddr → a ≠ s.params.kbdrAddr → s.poll.rawRead a = s.rawRead a) ∧
      ∃ rest, s.input = b :: rest ∧ s.poll.input = if s.params.pollConsumes then rest else s.input) ∧
    (s.pollAnswer = none →
      s.poll.rawRead s.params.kbsrAddr = 0x0000#16 ∧
      (∀ a, a ≠ s.params.kbsrAddr → s.poll.rawRead a = s.rawRead a) ∧ s.poll.input = s.input)

/-- How the model takes the host's answer from its own fields, log entry 7: the next byte of the stream if there is one
and the coming draw is Ready; a listed draw comes before a free one, and every poll takes one draw. -/
def Obligations.PollAnswerIsDrawn : Prop :=
  (∀ (s : State) (b : Byte), s.pollAnswer = some b ↔ s.nextDraw = true ∧ ∃ rest, s.input = b :: rest) ∧
  (∀ (s : State) (d : Bool) (ds : List Bool), s.draws = d :: ds →
    s.nextDraw = d ∧ s.poll.draws = ds ∧ s.poll.freeDraws = s.freeDraws) ∧
  ∀ s : State, s.draws = [] →
    s.nextDraw = Config.pollReady s.freeDraws ∧ s.poll.draws = [] ∧ s.poll.freeDraws = s.freeDraws + 1

/-- R41: a MemRead of the status cell polls before the value is taken, so it gives 0x8000 or 0x0000 whatever the cell
held; a MemRead of any other address gives the cell and has no side effect. -/
def Obligations.MemReadPollsOnlyTheStatusCell : Prop :=
  ∀ (s : State) (a : Word),
    (a ≠ s.params.kbsrAddr → s.memRead a = (s.rawRead a, s)) ∧
    (a = s.params.kbsrAddr → s.params.kbsrAddr ≠ s.params.kbdrAddr →
      (s.memRead a).2 = s.poll ∧ (s.memRead a).1 = s.poll.rawRead a ∧
      (s.memRead a).1 = if s.pollAnswer.isSome then 0x8000#16 else 0x0000#16)

/-- R42: a MemRead of the data cell gives what the cell holds and has no side effect: after a ready poll the byte
latched, which a not-ready poll leaves, after a store the value stored, at reset 0x0000. -/
def Obligations.DataCellReadHasNoSideEffect : Prop :=
  ∀ s : State, s.params.kbsrAddr ≠ s.params.kbdrAddr →
    s.memRead s.params.kbdrAddr = (s.rawRead s.params.kbdrAddr, s) ∧
    (∀ b, s.pollAnswer = some b → ((s.poll.memRead s.params.kbdrAddr).1).toNat = b.toNat) ∧
    (s.pollAnswer = none → (s.poll.memRead s.params.kbdrAddr).1 = s.rawRead s.params.kbdrAddr) ∧
    (∀ v, (s.memWrite s.params.kbdrAddr v).memRead s.params.kbdrAddr = (v, s.memWrite s.params.kbdrAddr v)) ∧
    (State.reset.memRead State.reset.params.kbdrAddr).1 = 0x0000#16

/-- R43: MemWrite sets the cell at every address, the device cells included, and has no side effect. The value kept in
the status cell cannot be read back by a MemRead. -/
def Obligations.MemWriteHasNoSideEffect : Prop :=
  ∀ (s : State) (a v : Word), CellStored s (s.memWrite a v) a v ∧
    (s.params.kbsrAddr ≠ s.params.kbdrAddr →
      ((s.memWrite s.params.kbsrAddr v).memRead s.params.kbsrAddr).1 = (s.memRead s.params.kbsrAddr).1)

/-- R52: the fetch reads through MemRead; a store is seen by the next fetch of that address; a fetch at the status cell polls and gives 0x8000 or
0x0000. -/
def Obligations.StoreIsSeenByTheNextFetch : Prop :=
  (∀ s : State, s.fetch.1 = (s.memRead s.pc).1) ∧
  (∀ (s : State) (a v : Word), a ≠ s.params.kbsrAddr → (((s.memWrite a v).setPc a).fetch).1 = v) ∧
  (∀ (s t : State) (r b : RegId) (off9 : BitVec 9) (off6 : BitVec 6), s.pc ≠ s.params.kbsrAddr →
    (exec (.st r off9) s = .next t → s.pc + sext off9 = s.pc → t.fetch.1 = s.reg r) ∧
    (exec (.str r b off6) s = .next t → s.reg b + sext off6 = s.pc → t.fetch.1 = s.reg r) ∧
    (exec (.sti r off9) s = .next t → s.pc + sext off9 ≠ s.params.kbsrAddr →
      s.rawRead (s.pc + sext off9) = s.pc → t.fetch.1 = s.reg r)) ∧
  (∀ s : State, s.pc = s.params.kbsrAddr → s.params.kbsrAddr ≠ s.params.kbdrAddr →
    (s.fetch.1 = 0x8000#16 ∨ s.fetch.1 = 0x0000#16) ∧ s.fetch.2 = s.poll.setPc (s.pc + 1#16))

/-! ### Operate instructions -/

/-- R69. -/
def Obligations.AddRegisterAddsModulo65536 : Prop :=
  ∀ (d a b : RegId) (g : BitVec 2) (s : State),
    decode (0b0001#4 ++ d ++ a ++ 0#1 ++ g ++ b) = .addReg d a g b ∧
    ∃ t v, exec (.addReg d a g b) s = .next t ∧ v.toNat = ((s.reg a).toNat + (s.reg b).toNat) % 65536 ∧
      ResultWritten s t d v ∧ SameMem s t ∧ SameHost s t

/-- R70. -/
def Obligations.AddImmediateAddsModulo65536 : Prop :=
  ∀ (d a : RegId) (imm : BitVec 5) (s : State),
    decode (0b0001#4 ++ d ++ a ++ 1#1 ++ imm) = .addImm d a imm ∧
    ∃ t v, exec (.addImm d a imm) s = .next t ∧ v.toNat = ((s.reg a).toNat + (sext imm).toNat) % 65536 ∧
      ResultWritten s t d v ∧ SameMem s t ∧ SameHost s t

/-- R71. -/
def Obligations.AndRegisterAndsBitwise : Prop :=
  ∀ (d a b : RegId) (g : BitVec 2) (s : State),
    decode (0b0101#4 ++ d ++ a ++ 0#1 ++ g ++ b) = .andReg d a g b ∧
    ∃ t v, exec (.andReg d a g b) s = .next t ∧
      (∀ k < 16, v.getLsbD k = ((s.reg a).getLsbD k && (s.reg b).getLsbD k)) ∧
      ResultWritten s t d v ∧ SameMem s t ∧ SameHost s t

/-- R72. -/
def Obligations.AndImmediateAndsBitwise : Prop :=
  ∀ (d a : RegId) (imm : BitVec 5) (s : State),
    decode (0b0101#4 ++ d ++ a ++ 1#1 ++ imm) = .andImm d a imm ∧
    ∃ t v, exec (.andImm d a imm) s = .next t ∧
      (∀ k < 16, v.getLsbD k = ((s.reg a).getLsbD k && (sext imm).getLsbD k)) ∧
      ResultWritten s t d v ∧ SameMem s t ∧ SameHost s t

/-- R73. -/
def Obligations.NotComplements : Prop :=
  ∀ (d a : RegId) (g : BitVec 6) (s : State),
    decode (0b1001#4 ++ d ++ a ++ g) = .not d a g ∧
    ∃ t v, exec (.not d a g) s = .next t ∧ v.toNat = 65535 - (s.reg a).toNat ∧
      ResultWritten s t d v ∧ SameMem s t ∧ SameHost s t

/-! ### Loads -/

/-- R74. The address is PC + sext_9, modulo 65536; off the status cell the load has no side effect, on it the load polls
and gives 0x8000 or 0x0000. -/
def Obligations.LdLoadsPcRelative : Prop :=
  ∀ (d : RegId) (off : BitVec 9) (s : State),
    decode (0b0010#4 ++ d ++ off) = .ld d off ∧
    ∃ t ea, exec (.ld d off) s = .next t ∧ ea.toNat = (s.pc.toNat + (sext off).toNat) % 65536 ∧
      ResultWritten s t d (s.memRead ea).1 ∧ SameMem (s.memRead ea).2 t ∧ SameHost (s.memRead ea).2 t ∧
      (ea ≠ s.params.kbsrAddr → t.reg d = s.rawRead ea ∧ SameMem s t ∧ SameHost s t) ∧
      (ea = s.params.kbsrAddr → s.params.kbsrAddr ≠ s.params.kbdrAddr →
        (t.reg d = 0x8000#16 ∧ t.cond = .n) ∨ (t.reg d = 0x0000#16 ∧ t.cond = .z))

/-- R75. The value comes from the second read, which takes place after the first. -/
def Obligations.LdiLoadsThroughPointer : Prop :=
  ∀ (d : RegId) (off : BitVec 9) (s : State),
    decode (0b1010#4 ++ d ++ off) = .ldi d off ∧
    ∃ t pa u ptr, exec (.ldi d off) s = .next t ∧ pa.toNat = (s.pc.toNat + (sext off).toNat) % 65536 ∧
      s.memRead pa = (ptr, u) ∧
      ResultWritten s t d (u.memRead ptr).1 ∧ SameMem (u.memRead ptr).2 t ∧ SameHost (u.memRead ptr).2 t ∧
      (pa ≠ s.params.kbsrAddr → ptr = s.rawRead pa) ∧
      (pa = s.params.kbsrAddr → s.params.kbsrAddr ≠ s.params.kbdrAddr → ptr = 0x8000#16 ∨ ptr = 0x0000#16) ∧
      (pa ≠ s.params.kbsrAddr → ptr ≠ s.params.kbsrAddr →
        t.reg d = s.rawRead (s.rawRead pa) ∧ SameMem s t ∧ SameHost s t)

/-- R76. The base is read before the destination is written, and changes only as the destination. -/
def Obligations.LdrLoadsBasePlusOffset : Prop :=
  ∀ (d b : RegId) (off : BitVec 6) (s : State),
    decode (0b0110#4 ++ d ++ b ++ off) = .ldr d b off ∧
    ∃ t ea, exec (.ldr d b off) s = .next t ∧ ea.toNat = ((s.reg b).toNat + (sext off).toNat) % 65536 ∧
      ResultWritten s t d (s.memRead ea).1 ∧ SameMem (s.memRead ea).2 t ∧ SameHost (s.memRead ea).2 t ∧
      (ea ≠ s.params.kbsrAddr → t.reg d = s.rawRead ea ∧ SameMem s t ∧ SameHost s t)

/-- R77. No memory access, and COND is set from the address. -/
def Obligations.LeaComputesTheAddress : Prop :=
  ∀ (d : RegId) (off : BitVec 9) (s : State),
    decode (0b1110#4 ++ d ++ off) = .lea d off ∧
    ∃ t v, exec (.lea d off) s = .next t ∧ v.toNat = (s.pc.toNat + (sext off).toNat) % 65536 ∧
      ResultWritten s t d v ∧ SameMem s t ∧ SameHost s t

/-! ### Stores -/

/-- R78. -/
def Obligations.StStoresPcRelative : Prop :=
  ∀ (r : RegId) (off : BitVec 9) (s : State),
    decode (0b0011#4 ++ r ++ off) = .st r off ∧
    ∃ t ea, exec (.st r off) s = .next t ∧ ea.toNat = (s.pc.toNat + (sext off).toNat) % 65536 ∧
      CellStored s t ea (s.reg r)

/-- R79. The pointer read comes first; a pointer cell at the status cell polls. -/
def Obligations.StiStoresThroughPointer : Prop :=
  ∀ (r : RegId) (off : BitVec 9) (s : State),
    decode (0b1011#4 ++ r ++ off) = .sti r off ∧
    ∃ t pa u ptr, exec (.sti r off) s = .next t ∧ pa.toNat = (s.pc.toNat + (sext off).toNat) % 65536 ∧
      s.memRead pa = (ptr, u) ∧ CellStored u t ptr (s.reg r) ∧
      SameRegs s t ∧ t.cond = s.cond ∧ t.pc = s.pc ∧ SameControl s t ∧
      (pa ≠ s.params.kbsrAddr → ptr = s.rawRead pa ∧ CellStored s t (s.rawRead pa) (s.reg r)) ∧
      (pa = s.params.kbsrAddr → s.params.kbsrAddr ≠ s.params.kbdrAddr → ptr = 0x8000#16 ∨ ptr = 0x0000#16)

/-- R80. -/
def Obligations.StrStoresBasePlusOffset : Prop :=
  ∀ (r b : RegId) (off : BitVec 6) (s : State),
    decode (0b0111#4 ++ r ++ b ++ off) = .str r b off ∧
    ∃ t ea, exec (.str r b off) s = .next t ∧ ea.toNat = ((s.reg b).toNat + (sext off).toNat) % 65536 ∧
      CellStored s t ea (s.reg r)

/-! ### Control -/

/-- R81, every case. -/
def Obligations.BranchTestsCondBits : Prop :=
  ∀ (n z p : Bool) (off : BitVec 9) (s : State),
    decode (0b0000#4 ++ BitVec.ofBool n ++ BitVec.ofBool z ++ BitVec.ofBool p ++ off) = .br n z p off ∧
    (n = false ∧ z = false ∧ p = false → exec (.br n z p off) s = .next s) ∧
    ((n = true ∨ z = true ∨ p = true) → s.cond = .none → s.params.condNonePolicy = .fault →
      exec (.br n z p off) s = .next { s with status := .faulted (.condUnset
        (0b0000#4 ++ BitVec.ofBool n ++ BitVec.ofBool z ++ BitVec.ofBool p ++ off) (s.pc - 1#16)) }) ∧
    ((n = true ∨ z = true ∨ p = true) → s.cond = .none → s.params.condNonePolicy = .noBranch →
      exec (.br n z p off) s = .next s) ∧
    (CondMatches n z p s.cond → exec (.br n z p off) s = .next { s with pc := s.pc + sext off }) ∧
    (s.cond ≠ .none → ¬ CondMatches n z p s.cond → exec (.br n z p off) s = .next s)

/-- R65: a BR with no condition bit is a no-op whatever COND holds, the all-zero word among them, as a whole step; a BR
with offset 0 is one where it does not fault. -/
def Obligations.NoOpBranchesDoNothing : Prop :=
  (∀ (off : BitVec 9) (s : State) (c : Cond), exec (.br false false false off) (s.setCond c) = .next (s.setCond c)) ∧
  (∀ s : State, s.status = .running → s.pc ≠ s.params.kbsrAddr → s.rawRead s.pc = 0x0000#16 →
    step s = .next { s with pc := s.pc + 1#16 }) ∧
  ∀ (n z p : Bool) (s : State), (s.cond ≠ .none ∨ s.params.condNonePolicy = .noBranch) →
    exec (.br n z p 0#9) s = .next s

/-- R82. -/
def Obligations.JmpGoesToBaseRegister : Prop :=
  ∀ (g : BitVec 3) (b : RegId) (h : BitVec 6) (s : State),
    decode (0b1100#4 ++ g ++ b ++ h) = .jmp g b h ∧
    exec (.jmp g b h) s = .next { s with pc := s.reg b }

/-- R83. -/
def Obligations.JsrLinksAndJumpsPcRelative : Prop :=
  ∀ (off : BitVec 11) (s : State),
    decode (0b0100#4 ++ 1#1 ++ off) = .jsr off ∧
    ∃ t, exec (.jsr off) s = .next t ∧ t.reg 7#3 = s.pc ∧
      t.pc.toNat = (s.pc.toNat + (sext off).toNat) % 65536 ∧
      SameRegsBut 7#3 s t ∧ t.cond = s.cond ∧ SameMem s t ∧ SameControl s t ∧ SameHost s t

/-- R84, under both link orders. -/
def Obligations.JsrrLinksAndJumpsToBase : Prop :=
  ∀ (g : BitVec 2) (b : RegId) (h : BitVec 6) (s : State),
    decode (0b0100#4 ++ 0#1 ++ g ++ b ++ h) = .jsrr g b h ∧
    ∃ t, exec (.jsrr g b h) s = .next t ∧ t.reg 7#3 = s.pc ∧
      (b ≠ 7#3 → t.pc = s.reg b) ∧
      (b = 7#3 → s.params.jsrrLinkOrder = .linkFirst → t.pc = s.pc) ∧
      (b = 7#3 → s.params.jsrrLinkOrder = .targetFirst → t.pc = s.reg 7#3) ∧
      SameRegsBut 7#3 s t ∧ t.cond = s.cond ∧ SameMem s t ∧ SameControl s t ∧ SameHost s t

/-! ### TRAP -/

/-- R85: the dispatch by vector, whatever bits 11:8 hold, and what no routine writes: registers other than R0,
memory, PC but for a hold, parameters. That a held GETC or IN (R62) answers a next state is log entry 8. -/
def Obligations.TrapDispatchesByVector : Prop :=
  ∀ (g h : BitVec 4) (v : BitVec 8) (s : State),
    decode (0b1111#4 ++ g ++ v) = Instr.refined (.trap g v) ∧
    exec (.trap g v) s =
      (match v.toNat with
      | 0x20 => exec (.trapGetc h) s
      | 0x21 => exec (.trapOut h) s
      | 0x22 => exec (.trapPuts h) s
      | 0x23 => exec (.trapIn h) s
      | 0x24 => exec (.trapPutsp h) s
      | 0x25 => exec (.trapHalt h) s
      | _ => exec (.trapUnknown h v) s) ∧
    ∃ t, exec (.trap g v) s = .next t ∧ SameRegsBut 0#3 s t ∧ SameMem s t ∧ t.params = s.params ∧
      (v ≠ 0x20#8 → v ≠ 0x23#8 → t.reg 0#3 = s.reg 0#3 ∧ t.cond = s.cond ∧ t.pc = s.pc)

/-- R86. With an input byte GETC takes it into R0, with none it holds. -/
def Obligations.GetcReadsOneByte : Prop :=
  ∀ (g : BitVec 4) (s : State),
    decode (0b1111#4 ++ g ++ 0x20#8) = .trapGetc g ∧
    (∀ b rest, s.input = b :: rest → ∃ t, exec (.trapGetc g) s = .next t ∧ exec (.trap g 0x20#8) s = .next t ∧
      InputTaken s t b ∧ t.input = rest ∧ t.out = s.out) ∧
    (s.input = [] → exec (.trapGetc g) s = .next { s with pc := s.pc - 1#16 } ∧
      exec (.trap g 0x20#8) s = .next { s with pc := s.pc - 1#16 })

/-- R87. -/
def Obligations.OutWritesTheLowByte : Prop :=
  ∀ (g : BitVec 4) (s : State),
    decode (0b1111#4 ++ g ++ 0x21#8) = .trapOut g ∧
    exec (.trapOut g) s = .next { s with out := s.out ++ [BitVec.ofNat 8 ((s.reg 0#3).toNat % 256)] } ∧
    exec (.trap g 0x21#8) s = .next { s with out := s.out ++ [BitVec.ofNat 8 ((s.reg 0#3).toNat % 256)] }

/-- R88: the low byte of each cell up to the zero cell; the fault where the scan meets the status cell or runs past
0xFFFF, with nothing written. -/
def Obligations.PutsWritesOneBytePerCell : Prop :=
  ∀ (g : BitVec 4) (s : State),
    decode (0b1111#4 ++ g ++ 0x22#8) = .trapPuts g ∧
    (∀ str, StringAt s (s.reg 0#3) str →
      exec (.trapPuts g) s = .next { s with out := s.out ++ str.map (fun w => BitVec.ofNat 8 w.toNat) } ∧
      exec (.trap g 0x22#8) s = .next { s with out := s.out ++ str.map (fun w => BitVec.ofNat 8 w.toNat) }) ∧
    (∀ e, ScanStopsAt s (s.reg 0#3) e →
      exec (.trapPuts g) s = .next { s with status := .faulted (.trapStringUnmodelled .puts e) } ∧
      exec (.trap g 0x22#8) s = .next { s with status := .faulted (.trapStringUnmodelled .puts e) })

/-- R89. Prompt, byte and echo in one step; with no input it holds. -/
def Obligations.InPromptsAndEchoes : Prop :=
  ∀ (g : BitVec 4) (s : State),
    decode (0b1111#4 ++ g ++ 0x23#8) = .trapIn g ∧
    (∀ b rest, s.input = b :: rest → ∃ t, exec (.trapIn g) s = .next t ∧ exec (.trap g 0x23#8) s = .next t ∧
      InputTaken s t b ∧ t.input = rest ∧ t.out = s.out ++ (s.params.inPrompt ++ [b])) ∧
    (s.input = [] → exec (.trapIn g) s = .next { s with pc := s.pc - 1#16 } ∧
      exec (.trap g 0x23#8) s = .next { s with pc := s.pc - 1#16 })

/-- R90: the low byte of each cell and then its high byte if it is not zero; faults as PUTS. -/
def Obligations.PutspWritesPackedBytes : Prop :=
  ∀ (g : BitVec 4) (s : State),
    decode (0b1111#4 ++ g ++ 0x24#8) = .trapPutsp g ∧
    (∀ str, StringAt s (s.reg 0#3) str →
      exec (.trapPutsp g) s = .next { s with out := s.out ++ str.flatMap packedBytes } ∧
      exec (.trap g 0x24#8) s = .next { s with out := s.out ++ str.flatMap packedBytes }) ∧
    (∀ e, ScanStopsAt s (s.reg 0#3) e →
      exec (.trapPutsp g) s = .next { s with status := .faulted (.trapStringUnmodelled .putsp e) } ∧
      exec (.trap g 0x24#8) s = .next { s with status := .faulted (.trapStringUnmodelled .putsp e) })

/-- R88, R90, R97: every state has exactly one of the two ends of a scan from R0. Either the cells hold a string, the only
one there, and PUTS and PUTSP write it; or there is one address at which the scan stops, and both fault there. -/
def Obligations.StringScanAlwaysEnds : Prop :=
  ∀ (g : BitVec 4) (s : State),
    ((∃ str, StringAt s (s.reg 0#3) str ∧ (∀ str', StringAt s (s.reg 0#3) str' → str' = str) ∧
        exec (.trapPuts g) s = .next { s with out := s.out ++ str.map (fun w => BitVec.ofNat 8 w.toNat) } ∧
        exec (.trapPutsp g) s = .next { s with out := s.out ++ str.flatMap packedBytes }) ∧
      ¬ ∃ e, ScanStopsAt s (s.reg 0#3) e) ∨
    ((¬ ∃ str, StringAt s (s.reg 0#3) str) ∧
      ∃ e, ScanStopsAt s (s.reg 0#3) e ∧ (∀ e', ScanStopsAt s (s.reg 0#3) e' → e' = e) ∧
        exec (.trapPuts g) s = .next { s with status := .faulted (.trapStringUnmodelled .puts e) } ∧
        exec (.trapPutsp g) s = .next { s with status := .faulted (.trapStringUnmodelled .putsp e) })

/-- R91. -/
def Obligations.HaltStopsTheCore : Prop :=
  ∀ (g : BitVec 4) (s : State),
    decode (0b1111#4 ++ g ++ 0x25#8) = .trapHalt g ∧
    exec (.trapHalt g) s = .next { s with out := s.out ++ s.params.haltNotice, status := .halted } ∧
    exec (.trap g 0x25#8) s = .next { s with out := s.out ++ s.params.haltNotice, status := .halted } ∧
    (∀ t t', exec (.trapHalt g) s = .next t → step t ≠ .next t')

/-- R92, under both policies. -/
def Obligations.UnknownTrapFollowsPolicy : Prop :=
  ∀ (g : BitVec 4) (v : BitVec 8) (s : State), (v.toNat < 0x20 ∨ 0x25 < v.toNat) →
    decode (0b1111#4 ++ g ++ v) = .trapUnknown g v ∧
    (s.params.unknownTrapPolicy = .fault →
      exec (.trapUnknown g v) s = .next { s with status := .faulted (.unknownTrapVector v (s.pc - 1#16)) } ∧
      exec (.trap g v) s = .next { s with status := .faulted (.unknownTrapVector v (s.pc - 1#16)) }) ∧
    (s.params.unknownTrapPolicy = .nop →
      exec (.trapUnknown g v) s = .next s ∧ exec (.trap g v) s = .next s)

/-! ### Faults, holding, stopping -/

/-- R94, both opcodes. -/
def Obligations.ReservedOpcodeFaults : Prop :=
  ∀ (g : BitVec 12) (s : State),
    decode (0b1000#4 ++ g) = .reserved8 g ∧ decode (0b1101#4 ++ g) = .reservedD g ∧
    exec (.reserved8 g) s =
      .next { s with status := .faulted (.reservedOpcode 0x8#4 (0b1000#4 ++ g) (s.pc - 1#16)) } ∧
    exec (.reservedD g) s =
      .next { s with status := .faulted (.reservedOpcode 0xD#4 (0b1101#4 ++ g) (s.pc - 1#16)) }

/-- R95: a faulting step commits the PC increment and the poll of a fetch at the status cell, sets the status, and
nothing else. -/
def Obligations.FaultsArePrecise : Prop :=
  ∀ (s t : State) (f : FaultRecord), step s = .next t → t.status = .faulted f →
    t.pc.toNat = (s.pc.toNat + 1) % 65536 ∧ SameRegs s t ∧ t.cond = s.cond ∧ t.out = s.out ∧
    t.params = s.params ∧
    (s.pc ≠ s.params.kbsrAddr → SameMem s t ∧ SameHost s t) ∧
    (s.pc = s.params.kbsrAddr → SameMem s.poll t ∧ SameHost s.poll t)

/-- R93, R97: which fault each instruction can raise, when, its code and what the record holds. -/
def Obligations.FaultKindFollowsTheInstruction : Prop :=
  ∀ (i : Instr) (s t : State) (f : FaultRecord),
    i.wellFormed = true → (∀ e, s.status ≠ .faulted e) → exec i s = .next t → t.status = .faulted f →
    match f with
    | .reservedOpcode op w a => f.code = 1 ∧ a = s.pc - 1#16 ∧
        ((op = 0x8#4 ∧ ∃ g, i = .reserved8 g ∧ w = 0b1000#4 ++ g) ∨
         (op = 0xD#4 ∧ ∃ g, i = .reservedD g ∧ w = 0b1101#4 ++ g))
    | .condUnset w a => f.code = 2 ∧ a = s.pc - 1#16 ∧ s.cond = .none ∧ s.params.condNonePolicy = .fault ∧
        ∃ n z p off, i = .br n z p off ∧ (n = true ∨ z = true ∨ p = true) ∧
          w = 0b0000#4 ++ BitVec.ofBool n ++ BitVec.ofBool z ++ BitVec.ofBool p ++ off
    | .unknownTrapVector v a => f.code = 3 ∧ a = s.pc - 1#16 ∧ s.params.unknownTrapPolicy = .fault ∧
        (v.toNat < 0x20 ∨ 0x25 < v.toNat) ∧ ∃ g, i = .trapUnknown g v
    | .trapStringUnmodelled .puts e => f.code = 4 ∧ ScanStopsAt s (s.reg 0#3) e ∧ ∃ g, i = .trapPuts g
    | .trapStringUnmodelled .putsp e => f.code = 4 ∧ ScanStopsAt s (s.reg 0#3) e ∧ ∃ g, i = .trapPutsp g

/-- R62: a held step changes nothing, not even PC; once the host has supplied a byte the step takes place. -/
def Obligations.HeldStepChangesNothing : Prop :=
  ∀ (s : State), s.status = .running →
    (∃ g, decode s.fetch.1 = .trapGetc g ∨ decode s.fetch.1 = .trapIn g) →
    (s.input = [] → step s = .next s) ∧
    (∀ b bytes answers, ∃ t, step (s.hostSupplies (b :: bytes) answers) = .next t ∧ t.pc = s.pc + 1#16 ∧
      t.input = (s.input ++ b :: bytes).tail)

/-- R27, R96: HALTED and FAULTED are never left, no step takes place in them (the outcome fault, log entry 9); R36, R54:
while RUNNING every step answers a next state, a held GETC or IN (R62) that of log entry 8: the state itself. -/
def Obligations.CoreStepsExactlyWhileRunning : Prop :=
  ∀ s : State,
    (s.status = .running → ∃ t, step s = .next t) ∧
    (s.status = .halted → step s = .fault .halted) ∧
    (∀ f, s.status = .faulted f → step s = .fault (.faulted f))

/-- R108, R91: only TRAP HALT ends a run normally. -/
def Obligations.OnlyHaltEndsNormally : Prop :=
  ∀ s t : State, step s = .next t → t.endedNormally → ∃ g, decode s.fetch.1 = .trapHalt g

/-! ### The step and the whole machine -/

/-- R61: a step runs the decoded instruction on the state after the fetch: MemRead(pc), then pc + 1. -/
def Obligations.StepRunsTheDecodedInstruction : Prop :=
  ∀ (s u : State) (w : Word) (i : Instr), s.status = .running → s.memRead s.pc = (w, u) → decode w = i →
    i.wellFormed = true ∧ step s = exec i { u with pc := s.pc + 1#16 } ∧
    (s.pc ≠ s.params.kbsrAddr → w = s.rawRead s.pc ∧ u = s)

/-- R18, R20: the fetch leaves PC at (A + 1) mod 65536 and changes nothing else off the status cell. -/
def Obligations.FetchIncrementsPcModulo65536 : Prop :=
  ∀ s : State, s.fetch.2.pc.toNat = (s.pc.toNat + 1) % 65536 ∧
    (s.pc ≠ s.params.kbsrAddr → s.fetch = (s.rawRead s.pc, { s with pc := s.pc + 1#16 }))

/-- R19: how each instruction leaves PC, on whole steps; a held read leaves it at the instruction. -/
def Obligations.PcAfterEachInstruction : Prop :=
  ∀ s t : State, step s = .next t →
    match decode s.fetch.1 with
    | .br n z p off => (CondMatches n z p s.cond → t.pc = s.pc + 1#16 + sext off) ∧
        (¬ CondMatches n z p s.cond → t.pc = s.pc + 1#16)
    | .jmp _ b _ => t.pc = s.reg b
    | .jsr off => t.pc = s.pc + 1#16 + sext off
    | .jsrr _ b _ => t.pc = if b = 7#3 ∧ s.params.jsrrLinkOrder = .linkFirst then s.pc + 1#16 else s.reg b
    | .trapGetc _ => t.pc = if s.input = [] then s.pc else s.pc + 1#16
    | .trapIn _ => t.pc = if s.input = [] then s.pc else s.pc + 1#16
    | _ => t.pc = s.pc + 1#16

/-- R16, R17: an instruction writes no general register but the one the table names. -/
def Obligations.RegistersWrittenByTheTable : Prop :=
  ∀ (i : Instr) (s t : State), exec i s = .next t →
    ∀ r, i.writesReg ≠ some r → t.reg r = s.reg r

/-- R29: `out` only grows, only OUT, PUTS, IN, PUTSP and HALT append to it, nothing reads it, and it is empty at
reset. -/
def Obligations.OutputOnlyGrowsAndIsNeverRead : Prop :=
  (∀ (i : Instr) (s t : State), exec i s = .next t →
    ∃ bs, t.out = s.out ++ bs ∧ (i.writesOut = false → bs = []) ∧
      ∀ o, exec i { s with out := o } = .next { t with out := o ++ bs }) ∧
  State.reset.out = []

/-- R103: every piece of the state tuple after reset. -/
def Obligations.ResetLeavesTheStatedValues : Prop :=
  (∀ r, State.reset.reg r = 0x0000#16) ∧ State.reset.pc = 0x3000#16 ∧ State.reset.cond = .none ∧
  (∀ a, State.reset.rawRead a = 0x0000#16) ∧ State.reset.status = .running ∧ State.reset.out = []

/-- The invariant holds at reset. -/
def Obligations.ResetMeetsInvariant : Prop := State.reset.Inv

/-- The invariant is kept by every step, from every state that meets it (R34, R6). -/
def Obligations.StepKeepsMemoryCanonical : Prop :=
  ∀ s t : State, s.Inv → step s = .next t → t.Inv

/-- R30: what a step depends on beyond the state is a parameter: no step changes one. -/
def Obligations.StepKeepsParameters : Prop :=
  ∀ s t : State, step s = .next t → t.params = s.params

/-- R104: an image that fits below 0x10000 is copied from its origin on, whatever `LOAD_OVERFLOW` says, and nothing
else changes; a later image is loaded over an earlier one. -/
def Obligations.ImageLoadCopiesTheWords : Prop :=
  (∀ (s : State) (o : Word) (vs : List Word), o.toNat + vs.length ≤ 65536 →
    ∃ t, s.loadImage ((o :: vs).flatMap (fun w => [highByte w, lowByte w])) = some t ∧
      (∀ a : Word, (a.toNat < o.toNat ∨ o.toNat + vs.length ≤ a.toNat) → t.rawRead a = s.rawRead a) ∧
      (∀ j, (h : j < vs.length) → t.rawRead (o + BitVec.ofNat 16 j) = vs[j]) ∧
      SameRegs s t ∧ t.pc = s.pc ∧ t.cond = s.cond ∧ SameControl s t ∧ SameHost s t) ∧
  (∀ (s : State) (x y : List Byte), s.loadImages [x, y] = (s.loadImage x).bind (fun t => t.loadImage y))

/-- The host's probe: the table word placed by `withFetchWord` is what the next step fetches and runs, in every state;
by R61. -/
def Obligations.PlacedWordIsFetchedNext : Prop :=
  ∀ (s : State) (w : Nat), w < 65536 → ∃ u : State,
    step (s.withFetchWord 16 w) = exec (decode (BitVec.ofNat 16 w)) u ∧
    decodeTableWord 16 w = some (decode (BitVec.ofNat 16 w)) ∧
    SameRegs s u ∧ u.cond = s.cond ∧ u.status = .running ∧ u.out = s.out ∧ SameHost s u ∧
    (s.pc ≠ s.params.kbsrAddr → u.pc = s.pc + 1#16)
end

