-- ==== Sys2Proof/Laws/Decode.lean ====
section
/-! SUPPORT. Words as numbers: a field of a word and a word put together from its fields, so that encoding goals become
goals of arithmetic. -/

namespace Sys2Proof

/-- A concatenation as a number. -/
theorem toNat_cat {m n : Nat} (x : BitVec m) (y : BitVec n) : (x ++ y).toNat = x.toNat * 2 ^ n + y.toNat := by
  rw [BitVec.toNat_append, ← Nat.shiftLeft_add_eq_or_of_lt y.isLt, Nat.shiftLeft_eq]

/-- A field as a number. -/
theorem toNat_bitField (w : Word) (lo len : Nat) : (bitField w lo len).toNat = w.toNat / 2 ^ lo % 2 ^ len := by
  simp [bitField, Nat.shiftRight_eq_div_pow]

/-- One bit of a word, from its number. -/
theorem getElem_eq_decide (w : Word) (k : Nat) (h : k < 16) : w[k] = decide (w.toNat / 2 ^ k % 2 = 1) := by
  rw [← BitVec.getLsbD_eq_getElem, BitVec.getLsbD, Nat.testBit_eq_decide_div_mod_eq]

/-- The fields of an instruction's word as one number (30_encoding.md R58). -/
def wordNat : Instr → Nat
  | .addReg d a g b => 0x1000 + d.toNat * 512 + a.toNat * 64 + g.toNat * 8 + b.toNat
  | .addImm d a imm => 0x1000 + d.toNat * 512 + a.toNat * 64 + 32 + imm.toNat
  | .andReg d a g b => 0x5000 + d.toNat * 512 + a.toNat * 64 + g.toNat * 8 + b.toNat
  | .andImm d a imm => 0x5000 + d.toNat * 512 + a.toNat * 64 + 32 + imm.toNat
  | .not d a g => 0x9000 + d.toNat * 512 + a.toNat * 64 + g.toNat
  | .ld d off => 0x2000 + d.toNat * 512 + off.toNat
  | .ldi d off => 0xA000 + d.toNat * 512 + off.toNat
  | .ldr d b off => 0x6000 + d.toNat * 512 + b.toNat * 64 + off.toNat
  | .lea d off => 0xE000 + d.toNat * 512 + off.toNat
  | .st r off => 0x3000 + r.toNat * 512 + off.toNat
  | .sti r off => 0xB000 + r.toNat * 512 + off.toNat
  | .str r b off => 0x7000 + r.toNat * 512 + b.toNat * 64 + off.toNat
  | .br n z p off => n.toNat * 2048 + z.toNat * 1024 + p.toNat * 512 + off.toNat
  | .jmp g b h => 0xC000 + g.toNat * 512 + b.toNat * 64 + h.toNat
  | .jsr off => 0x4800 + off.toNat
  | .jsrr g b h => 0x4000 + g.toNat * 512 + b.toNat * 64 + h.toNat
  | .trap g v => 0xF000 + g.toNat * 256 + v.toNat
  | .trapGetc g => 0xF020 + g.toNat * 256
  | .trapOut g => 0xF021 + g.toNat * 256
  | .trapPuts g => 0xF022 + g.toNat * 256
  | .trapIn g => 0xF023 + g.toNat * 256
  | .trapPutsp g => 0xF024 + g.toNat * 256
  | .trapHalt g => 0xF025 + g.toNat * 256
  | .trapUnknown g v => 0xF000 + g.toNat * 256 + v.toNat
  | .reserved8 g => 0x8000 + g.toNat
  | .reservedD g => 0xD000 + g.toNat

/-- The encoder's word is the number its fields make. -/
theorem encode_toNat (i : Instr) : (encode i).toNat = wordNat i := by
  cases i with
  | addReg d a g b =>
    rw [show encode (.addReg d a g b) = (0b0001#4 ++ d ++ a ++ 0#1 ++ g ++ b).cast rfl from rfl]
    simp only [BitVec.toNat_cast, toNat_cat, BitVec.toNat_ofNat, wordNat]
    omega
  | addImm d a imm =>
    rw [show encode (.addImm d a imm) = (0b0001#4 ++ d ++ a ++ 1#1 ++ imm).cast rfl from rfl]
    simp only [BitVec.toNat_cast, toNat_cat, BitVec.toNat_ofNat, wordNat]
    omega
  | andReg d a g b =>
    rw [show encode (.andReg d a g b) = (0b0101#4 ++ d ++ a ++ 0#1 ++ g ++ b).cast rfl from rfl]
    simp only [BitVec.toNat_cast, toNat_cat, BitVec.toNat_ofNat, wordNat]
    omega
  | andImm d a imm =>
    rw [show encode (.andImm d a imm) = (0b0101#4 ++ d ++ a ++ 1#1 ++ imm).cast rfl from rfl]
    simp only [BitVec.toNat_cast, toNat_cat, BitVec.toNat_ofNat, wordNat]
    omega
  | not d a g =>
    rw [show encode (.not d a g) = (0b1001#4 ++ d ++ a ++ g).cast rfl from rfl]
    simp only [BitVec.toNat_cast, toNat_cat, BitVec.toNat_ofNat, wordNat]
    omega
  | ld d off =>
    rw [show encode (.ld d off) = (0b0010#4 ++ d ++ off).cast rfl from rfl]
    simp only [BitVec.toNat_cast, toNat_cat, BitVec.toNat_ofNat, wordNat]
    omega
  | ldi d off =>
    rw [show encode (.ldi d off) = (0b1010#4 ++ d ++ off).cast rfl from rfl]
    simp only [BitVec.toNat_cast, toNat_cat, BitVec.toNat_ofNat, wordNat]
    omega
  | ldr d b off =>
    rw [show encode (.ldr d b off) = (0b0110#4 ++ d ++ b ++ off).cast rfl from rfl]
    simp only [BitVec.toNat_cast, toNat_cat, BitVec.toNat_ofNat, wordNat]
    omega
  | lea d off =>
    rw [show encode (.lea d off) = (0b1110#4 ++ d ++ off).cast rfl from rfl]
    simp only [BitVec.toNat_cast, toNat_cat, BitVec.toNat_ofNat, wordNat]
    omega
  | st r off =>
    rw [show encode (.st r off) = (0b0011#4 ++ r ++ off).cast rfl from rfl]
    simp only [BitVec.toNat_cast, toNat_cat, BitVec.toNat_ofNat, wordNat]
    omega
  | sti r off =>
    rw [show encode (.sti r off) = (0b1011#4 ++ r ++ off).cast rfl from rfl]
    simp only [BitVec.toNat_cast, toNat_cat, BitVec.toNat_ofNat, wordNat]
    omega
  | str r b off =>
    rw [show encode (.str r b off) = (0b0111#4 ++ r ++ b ++ off).cast rfl from rfl]
    simp only [BitVec.toNat_cast, toNat_cat, BitVec.toNat_ofNat, wordNat]
    omega
  | br n z p off =>
    rw [show encode (.br n z p off) = (0b0000#4 ++ BitVec.ofBool n ++ BitVec.ofBool z ++ BitVec.ofBool p ++ off).cast rfl from rfl]
    simp only [BitVec.toNat_cast, toNat_cat, BitVec.toNat_ofNat, BitVec.toNat_ofBool, wordNat]
    omega
  | jmp g b h =>
    rw [show encode (.jmp g b h) = (0b1100#4 ++ g ++ b ++ h).cast rfl from rfl]
    simp only [BitVec.toNat_cast, toNat_cat, BitVec.toNat_ofNat, wordNat]
    omega
  | jsr off =>
    rw [show encode (.jsr off) = (0b0100#4 ++ 1#1 ++ off).cast rfl from rfl]
    simp only [BitVec.toNat_cast, toNat_cat, BitVec.toNat_ofNat, wordNat] <;> omega
  | jsrr g b h =>
    rw [show encode (.jsrr g b h) = (0b0100#4 ++ 0#1 ++ g ++ b ++ h).cast rfl from rfl]
    simp only [BitVec.toNat_cast, toNat_cat, BitVec.toNat_ofNat, wordNat]
    omega
  | trap g v =>
    rw [show encode (.trap g v) = (0b1111#4 ++ g ++ v).cast rfl from rfl]
    simp only [BitVec.toNat_cast, toNat_cat, BitVec.toNat_ofNat, wordNat]
    omega
  | trapGetc g =>
    rw [show encode (.trapGetc g) = (0b1111#4 ++ g ++ 0x20#8).cast rfl from rfl]
    simp only [BitVec.toNat_cast, toNat_cat, BitVec.toNat_ofNat, wordNat]
    omega
  | trapOut g =>
    rw [show encode (.trapOut g) = (0b1111#4 ++ g ++ 0x21#8).cast rfl from rfl]
    simp only [BitVec.toNat_cast, toNat_cat, BitVec.toNat_ofNat, wordNat]
    omega
  | trapPuts g =>
    rw [show encode (.trapPuts g) = (0b1111#4 ++ g ++ 0x22#8).cast rfl from rfl]
    simp only [BitVec.toNat_cast, toNat_cat, BitVec.toNat_ofNat, wordNat]
    omega
  | trapIn g =>
    rw [show encode (.trapIn g) = (0b1111#4 ++ g ++ 0x23#8).cast rfl from rfl]
    simp only [BitVec.toNat_cast, toNat_cat, BitVec.toNat_ofNat, wordNat]
    omega
  | trapPutsp g =>
    rw [show encode (.trapPutsp g) = (0b1111#4 ++ g ++ 0x24#8).cast rfl from rfl]
    simp only [BitVec.toNat_cast, toNat_cat, BitVec.toNat_ofNat, wordNat]
    omega
  | trapHalt g =>
    rw [show encode (.trapHalt g) = (0b1111#4 ++ g ++ 0x25#8).cast rfl from rfl]
    simp only [BitVec.toNat_cast, toNat_cat, BitVec.toNat_ofNat, wordNat]
    omega
  | trapUnknown g v =>
    rw [show encode (.trapUnknown g v) = (0b1111#4 ++ g ++ v).cast rfl from rfl]
    simp only [BitVec.toNat_cast, toNat_cat, BitVec.toNat_ofNat, wordNat]
    omega
  | reserved8 g =>
    rw [show encode (.reserved8 g) = (0b1000#4 ++ g).cast rfl from rfl]
    simp only [BitVec.toNat_cast, toNat_cat, BitVec.toNat_ofNat, wordNat] <;> omega
  | reservedD g =>
    rw [show encode (.reservedD g) = (0b1101#4 ++ g).cast rfl from rfl]
    simp only [BitVec.toNat_cast, toNat_cat, BitVec.toNat_ofNat, wordNat] <;> omega

/-- An encoded instruction's opcode field, as a number. -/
theorem toNat_opcodeOf_encode (i : Instr) : (opcodeOf (encode i)).toNat = wordNat i / 4096 % 16 := by
  have h := toNat_bitField (encode i) 12 4
  rw [encode_toNat] at h
  unfold opcodeOf
  omega

end Sys2Proof
end

