-- ==== Sys2Proof/Laws/State.lean ====
section
/-! SUPPORT. What each named update does to each field, and to the reads of registers and cells. Each is true by
unfolding the one update, so that no later proof unfolds a record. -/

namespace Sys2Proof.Machine

variable (s : State)

/-! ### `State.setReg` -/

@[simp] theorem State.setReg_regs (r : RegId) (v : Word) : (s.setReg r v).regs = s.regs.set r.toNat v r.isLt := rfl
@[simp] theorem State.setReg_pc (r : RegId) (v : Word) : (s.setReg r v).pc = s.pc := rfl
@[simp] theorem State.setReg_cond (r : RegId) (v : Word) : (s.setReg r v).cond = s.cond := rfl
@[simp] theorem State.setReg_mem (r : RegId) (v : Word) : (s.setReg r v).mem = s.mem := rfl
@[simp] theorem State.setReg_status (r : RegId) (v : Word) : (s.setReg r v).status = s.status := rfl
@[simp] theorem State.setReg_out (r : RegId) (v : Word) : (s.setReg r v).out = s.out := rfl
@[simp] theorem State.setReg_params (r : RegId) (v : Word) : (s.setReg r v).params = s.params := rfl
@[simp] theorem State.setReg_input (r : RegId) (v : Word) : (s.setReg r v).input = s.input := rfl
@[simp] theorem State.setReg_draws (r : RegId) (v : Word) : (s.setReg r v).draws = s.draws := rfl
@[simp] theorem State.setReg_freeDraws (r : RegId) (v : Word) : (s.setReg r v).freeDraws = s.freeDraws := rfl
@[simp] theorem State.setReg_rawRead (r : RegId) (v : Word) (b : Word) : (s.setReg r v).rawRead b = s.rawRead b := rfl

/-! ### `State.setPc` -/

@[simp] theorem State.setPc_regs (v : Word) : (s.setPc v).regs = s.regs := rfl
@[simp] theorem State.setPc_pc (v : Word) : (s.setPc v).pc = v := rfl
@[simp] theorem State.setPc_cond (v : Word) : (s.setPc v).cond = s.cond := rfl
@[simp] theorem State.setPc_mem (v : Word) : (s.setPc v).mem = s.mem := rfl
@[simp] theorem State.setPc_status (v : Word) : (s.setPc v).status = s.status := rfl
@[simp] theorem State.setPc_out (v : Word) : (s.setPc v).out = s.out := rfl
@[simp] theorem State.setPc_params (v : Word) : (s.setPc v).params = s.params := rfl
@[simp] theorem State.setPc_input (v : Word) : (s.setPc v).input = s.input := rfl
@[simp] theorem State.setPc_draws (v : Word) : (s.setPc v).draws = s.draws := rfl
@[simp] theorem State.setPc_freeDraws (v : Word) : (s.setPc v).freeDraws = s.freeDraws := rfl
@[simp] theorem State.setPc_reg (v : Word) (r : RegId) : (s.setPc v).reg r = s.reg r := rfl
@[simp] theorem State.setPc_rawRead (v : Word) (b : Word) : (s.setPc v).rawRead b = s.rawRead b := rfl

/-! ### `State.setCond` -/

@[simp] theorem State.setCond_regs (c : Cond) : (s.setCond c).regs = s.regs := rfl
@[simp] theorem State.setCond_pc (c : Cond) : (s.setCond c).pc = s.pc := rfl
@[simp] theorem State.setCond_cond (c : Cond) : (s.setCond c).cond = c := rfl
@[simp] theorem State.setCond_mem (c : Cond) : (s.setCond c).mem = s.mem := rfl
@[simp] theorem State.setCond_status (c : Cond) : (s.setCond c).status = s.status := rfl
@[simp] theorem State.setCond_out (c : Cond) : (s.setCond c).out = s.out := rfl
@[simp] theorem State.setCond_params (c : Cond) : (s.setCond c).params = s.params := rfl
@[simp] theorem State.setCond_input (c : Cond) : (s.setCond c).input = s.input := rfl
@[simp] theorem State.setCond_draws (c : Cond) : (s.setCond c).draws = s.draws := rfl
@[simp] theorem State.setCond_freeDraws (c : Cond) : (s.setCond c).freeDraws = s.freeDraws := rfl
@[simp] theorem State.setCond_reg (c : Cond) (r : RegId) : (s.setCond c).reg r = s.reg r := rfl
@[simp] theorem State.setCond_rawRead (c : Cond) (b : Word) : (s.setCond c).rawRead b = s.rawRead b := rfl

/-! ### `State.setStatus` -/

@[simp] theorem State.setStatus_regs (st : Status) : (s.setStatus st).regs = s.regs := rfl
@[simp] theorem State.setStatus_pc (st : Status) : (s.setStatus st).pc = s.pc := rfl
@[simp] theorem State.setStatus_cond (st : Status) : (s.setStatus st).cond = s.cond := rfl
@[simp] theorem State.setStatus_mem (st : Status) : (s.setStatus st).mem = s.mem := rfl
@[simp] theorem State.setStatus_status (st : Status) : (s.setStatus st).status = st := rfl
@[simp] theorem State.setStatus_out (st : Status) : (s.setStatus st).out = s.out := rfl
@[simp] theorem State.setStatus_params (st : Status) : (s.setStatus st).params = s.params := rfl
@[simp] theorem State.setStatus_input (st : Status) : (s.setStatus st).input = s.input := rfl
@[simp] theorem State.setStatus_draws (st : Status) : (s.setStatus st).draws = s.draws := rfl
@[simp] theorem State.setStatus_freeDraws (st : Status) : (s.setStatus st).freeDraws = s.freeDraws := rfl
@[simp] theorem State.setStatus_reg (st : Status) (r : RegId) : (s.setStatus st).reg r = s.reg r := rfl
@[simp] theorem State.setStatus_rawRead (st : Status) (b : Word) : (s.setStatus st).rawRead b = s.rawRead b := rfl

/-! ### `State.emit` -/

@[simp] theorem State.emit_regs (bs : List Byte) : (s.emit bs).regs = s.regs := rfl
@[simp] theorem State.emit_pc (bs : List Byte) : (s.emit bs).pc = s.pc := rfl
@[simp] theorem State.emit_cond (bs : List Byte) : (s.emit bs).cond = s.cond := rfl
@[simp] theorem State.emit_mem (bs : List Byte) : (s.emit bs).mem = s.mem := rfl
@[simp] theorem State.emit_status (bs : List Byte) : (s.emit bs).status = s.status := rfl
@[simp] theorem State.emit_out (bs : List Byte) : (s.emit bs).out = s.out ++ bs := rfl
@[simp] theorem State.emit_params (bs : List Byte) : (s.emit bs).params = s.params := rfl
@[simp] theorem State.emit_input (bs : List Byte) : (s.emit bs).input = s.input := rfl
@[simp] theorem State.emit_draws (bs : List Byte) : (s.emit bs).draws = s.draws := rfl
@[simp] theorem State.emit_freeDraws (bs : List Byte) : (s.emit bs).freeDraws = s.freeDraws := rfl
@[simp] theorem State.emit_reg (bs : List Byte) (r : RegId) : (s.emit bs).reg r = s.reg r := rfl
@[simp] theorem State.emit_rawRead (bs : List Byte) (b : Word) : (s.emit bs).rawRead b = s.rawRead b := rfl

/-! ### `State.rawWrite` -/

@[simp] theorem State.rawWrite_regs (a v : Word) : (s.rawWrite a v).regs = s.regs := rfl
@[simp] theorem State.rawWrite_pc (a v : Word) : (s.rawWrite a v).pc = s.pc := rfl
@[simp] theorem State.rawWrite_cond (a v : Word) : (s.rawWrite a v).cond = s.cond := rfl
@[simp] theorem State.rawWrite_mem (a v : Word) : (s.rawWrite a v).mem = Memory.write s.mem a.toNat v := rfl
@[simp] theorem State.rawWrite_status (a v : Word) : (s.rawWrite a v).status = s.status := rfl
@[simp] theorem State.rawWrite_out (a v : Word) : (s.rawWrite a v).out = s.out := rfl
@[simp] theorem State.rawWrite_params (a v : Word) : (s.rawWrite a v).params = s.params := rfl
@[simp] theorem State.rawWrite_input (a v : Word) : (s.rawWrite a v).input = s.input := rfl
@[simp] theorem State.rawWrite_draws (a v : Word) : (s.rawWrite a v).draws = s.draws := rfl
@[simp] theorem State.rawWrite_freeDraws (a v : Word) : (s.rawWrite a v).freeDraws = s.freeDraws := rfl
@[simp] theorem State.rawWrite_reg (a v : Word) (r : RegId) : (s.rawWrite a v).reg r = s.reg r := rfl

/-! ### `State.dropInput` -/

@[simp] theorem State.dropInput_regs : (s.dropInput).regs = s.regs := rfl
@[simp] theorem State.dropInput_pc : (s.dropInput).pc = s.pc := rfl
@[simp] theorem State.dropInput_cond : (s.dropInput).cond = s.cond := rfl
@[simp] theorem State.dropInput_mem : (s.dropInput).mem = s.mem := rfl
@[simp] theorem State.dropInput_status : (s.dropInput).status = s.status := rfl
@[simp] theorem State.dropInput_out : (s.dropInput).out = s.out := rfl
@[simp] theorem State.dropInput_params : (s.dropInput).params = s.params := rfl
@[simp] theorem State.dropInput_input : (s.dropInput).input = s.input.tail := rfl
@[simp] theorem State.dropInput_draws : (s.dropInput).draws = s.draws := rfl
@[simp] theorem State.dropInput_freeDraws : (s.dropInput).freeDraws = s.freeDraws := rfl
@[simp] theorem State.dropInput_reg (r : RegId) : (s.dropInput).reg r = s.reg r := rfl
@[simp] theorem State.dropInput_rawRead (b : Word) : (s.dropInput).rawRead b = s.rawRead b := rfl

/-! ### `State.hostSupplies` -/

@[simp] theorem State.hostSupplies_regs (bytes : List Byte) (answers : List Bool) :
    (s.hostSupplies bytes answers).regs = s.regs := rfl
@[simp] theorem State.hostSupplies_pc (bytes : List Byte) (answers : List Bool) :
    (s.hostSupplies bytes answers).pc = s.pc := rfl
@[simp] theorem State.hostSupplies_cond (bytes : List Byte) (answers : List Bool) :
    (s.hostSupplies bytes answers).cond = s.cond := rfl
@[simp] theorem State.hostSupplies_mem (bytes : List Byte) (answers : List Bool) :
    (s.hostSupplies bytes answers).mem = s.mem := rfl
@[simp] theorem State.hostSupplies_status (bytes : List Byte) (answers : List Bool) :
    (s.hostSupplies bytes answers).status = s.status := rfl
@[simp] theorem State.hostSupplies_out (bytes : List Byte) (answers : List Bool) :
    (s.hostSupplies bytes answers).out = s.out := rfl
@[simp] theorem State.hostSupplies_params (bytes : List Byte) (answers : List Bool) :
    (s.hostSupplies bytes answers).params = s.params := rfl
@[simp] theorem State.hostSupplies_input (bytes : List Byte) (answers : List Bool) :
    (s.hostSupplies bytes answers).input = s.input ++ bytes := rfl
@[simp] theorem State.hostSupplies_draws (bytes : List Byte) (answers : List Bool) :
    (s.hostSupplies bytes answers).draws = s.draws ++ answers := rfl
@[simp] theorem State.hostSupplies_freeDraws (bytes : List Byte) (answers : List Bool) :
    (s.hostSupplies bytes answers).freeDraws = s.freeDraws := rfl
@[simp] theorem State.hostSupplies_reg (bytes : List Byte) (answers : List Bool) (r : RegId) :
    (s.hostSupplies bytes answers).reg r = s.reg r := rfl
@[simp] theorem State.hostSupplies_rawRead (bytes : List Byte) (answers : List Bool) (a : Word) :
    (s.hostSupplies bytes answers).rawRead a = s.rawRead a := rfl

/-! ### `State.takeDraw` -/

@[simp] theorem State.takeDraw_regs : s.takeDraw.regs = s.regs := by
  unfold State.takeDraw; split <;> rfl
@[simp] theorem State.takeDraw_pc : s.takeDraw.pc = s.pc := by
  unfold State.takeDraw; split <;> rfl
@[simp] theorem State.takeDraw_cond : s.takeDraw.cond = s.cond := by
  unfold State.takeDraw; split <;> rfl
@[simp] theorem State.takeDraw_mem : s.takeDraw.mem = s.mem := by
  unfold State.takeDraw; split <;> rfl
@[simp] theorem State.takeDraw_status : s.takeDraw.status = s.status := by
  unfold State.takeDraw; split <;> rfl
@[simp] theorem State.takeDraw_out : s.takeDraw.out = s.out := by
  unfold State.takeDraw; split <;> rfl
@[simp] theorem State.takeDraw_params : s.takeDraw.params = s.params := by
  unfold State.takeDraw; split <;> rfl
@[simp] theorem State.takeDraw_input : s.takeDraw.input = s.input := by
  unfold State.takeDraw; split <;> rfl
@[simp] theorem State.takeDraw_draws : s.takeDraw.draws = s.draws.tail := by
  unfold State.takeDraw; split <;> simp_all
theorem State.takeDraw_freeDraws :
    s.takeDraw.freeDraws = if s.draws = [] then s.freeDraws + 1 else s.freeDraws := by
  unfold State.takeDraw; split <;> simp_all
@[simp] theorem State.takeDraw_reg (r : RegId) : s.takeDraw.reg r = s.reg r := by
  simp [State.reg]
@[simp] theorem State.takeDraw_rawRead (a : Word) : s.takeDraw.rawRead a = s.rawRead a := by
  simp [State.rawRead]

/-! ### `State.setcc` and `State.writeResult` -/

@[simp] theorem State.setcc_regs (v : Word) : (s.setcc v).regs = s.regs := rfl
@[simp] theorem State.setcc_pc (v : Word) : (s.setcc v).pc = s.pc := rfl
@[simp] theorem State.setcc_cond (v : Word) : (s.setcc v).cond = condOf v := rfl
@[simp] theorem State.setcc_mem (v : Word) : (s.setcc v).mem = s.mem := rfl
@[simp] theorem State.setcc_status (v : Word) : (s.setcc v).status = s.status := rfl
@[simp] theorem State.setcc_out (v : Word) : (s.setcc v).out = s.out := rfl
@[simp] theorem State.setcc_params (v : Word) : (s.setcc v).params = s.params := rfl
@[simp] theorem State.setcc_input (v : Word) : (s.setcc v).input = s.input := rfl
@[simp] theorem State.setcc_draws (v : Word) : (s.setcc v).draws = s.draws := rfl
@[simp] theorem State.setcc_freeDraws (v : Word) : (s.setcc v).freeDraws = s.freeDraws := rfl
@[simp] theorem State.setcc_reg (v : Word) (r : RegId) : (s.setcc v).reg r = s.reg r := rfl
@[simp] theorem State.setcc_rawRead (v a : Word) : (s.setcc v).rawRead a = s.rawRead a := rfl
@[simp] theorem State.writeResult_pc (d : RegId) (v : Word) : (s.writeResult d v).pc = s.pc := rfl
@[simp] theorem State.writeResult_cond (d : RegId) (v : Word) : (s.writeResult d v).cond = condOf v := rfl
@[simp] theorem State.writeResult_mem (d : RegId) (v : Word) : (s.writeResult d v).mem = s.mem := rfl
@[simp] theorem State.writeResult_status (d : RegId) (v : Word) : (s.writeResult d v).status = s.status := rfl
@[simp] theorem State.writeResult_out (d : RegId) (v : Word) : (s.writeResult d v).out = s.out := rfl
@[simp] theorem State.writeResult_params (d : RegId) (v : Word) : (s.writeResult d v).params = s.params := rfl
@[simp] theorem State.writeResult_input (d : RegId) (v : Word) : (s.writeResult d v).input = s.input := rfl
@[simp] theorem State.writeResult_draws (d : RegId) (v : Word) : (s.writeResult d v).draws = s.draws := rfl
@[simp] theorem State.writeResult_freeDraws (d : RegId) (v : Word) : (s.writeResult d v).freeDraws = s.freeDraws := rfl
@[simp] theorem State.writeResult_reg (d r : RegId) (v : Word) : (s.writeResult d v).reg r = (s.setReg d v).reg r := rfl
@[simp] theorem State.writeResult_rawRead (d : RegId) (v a : Word) : (s.writeResult d v).rawRead a = s.rawRead a := rfl

end Sys2Proof.Machine
end

