-- ==== Sys2Proof/Laws/Memory.lean ====
section
/-! SUPPORT. The register file and memory: a read after a write, and that every memory operation keeps the canonical
form (spec/20_memory.md R39, R49). -/

namespace Sys2Proof.Machine

/-! ### Registers -/

/-- A register read after a register write. -/
theorem State.reg_setReg (s : State) (d r : RegId) (v : Word) :
    (s.setReg d v).reg r = if r = d then v else s.reg r := by
  unfold State.reg State.setReg
  by_cases h : r = d
  · subst h
    simp
  · have h' : d.toNat ≠ r.toNat := fun e => h (BitVec.eq_of_toNat_eq e.symm)
    simp [h, h']

@[simp] theorem State.reg_setReg_self (s : State) (d : RegId) (v : Word) : (s.setReg d v).reg d = v := by
  simp [State.reg_setReg]

/-! ### Cells -/

@[simp] theorem Memory.read_nil (a : Nat) : Memory.read [] a = 0#16 := rfl

/-- A memory without an entry for an address reads 0x0000 there. -/
theorem Memory.read_filter_self (m : Memory) (a : Nat) :
    Memory.read (m.filter (fun c => c.1 != a)) a = 0#16 := by
  induction m with
  | nil => rfl
  | cons c m ih =>
    by_cases h : c.1 = a
    · simpa [List.filter, h] using ih
    · have h' : (c.1 != a) = true := by simpa using h
      simp only [List.filter_cons, h', if_true, Memory.read, h, if_false]
      exact ih

/-- Removing one address leaves every other cell alone. -/
theorem Memory.read_filter_ne (m : Memory) {a b : Nat} (hb : b ≠ a) :
    Memory.read (m.filter (fun c => c.1 != a)) b = Memory.read m b := by
  induction m with
  | nil => rfl
  | cons c m ih =>
    by_cases h : c.1 = a
    · have h' : (c.1 != a) = false := by simpa using h
      have hc : ¬ c.1 = b := fun e => hb (e.symm.trans h)
      simp only [List.filter_cons, h', Memory.read, hc, if_false]
      exact ih
    · have h' : (c.1 != a) = true := by simpa using h
      simp only [List.filter_cons, h', if_true, Memory.read, ih]

/-- A read after an insertion at an address that was not listed. -/
theorem Memory.read_insert (m : Memory) (a b : Nat) (v : Word) (h : ∀ c ∈ m, c.1 ≠ a) :
    Memory.read (Memory.insert m a v) b = if b = a then v else Memory.read m b := by
  induction m with
  | nil =>
    by_cases hb : b = a
    · simp [Memory.insert, Memory.read, hb]
    · simp [Memory.insert, Memory.read, hb, Ne.symm hb]
  | cons c m ih =>
    have hc : c.1 ≠ a := h c (by simp)
    have ih := ih (fun c' hc' => h c' (by simp [hc']))
    by_cases hlt : a < c.1
    · by_cases hb : b = a
      · simp [Memory.insert, hlt, Memory.read, hb]
      · simp [Memory.insert, hlt, Memory.read, hb, Ne.symm hb]
    · simp only [Memory.insert, hlt, if_false, Memory.read, ih]
      by_cases hb : b = a
      · simp [hb, hc]
      · simp [hb]

/-- A cell read after a cell write, in any memory, canonical or not. -/
theorem Memory.read_write (m : Memory) (a b : Nat) (v : Word) :
    Memory.read (Memory.write m a v) b = if b = a then v else Memory.read m b := by
  unfold Memory.write
  by_cases hv : v = 0#16
  · by_cases hb : b = a
    · simp only [hv, hb, if_true]
      exact Memory.read_filter_self m a
    · simp only [hv, hb, if_true, if_false]
      exact Memory.read_filter_ne m hb
  · simp only [hv, if_false]
    rw [Memory.read_insert]
    · by_cases hb : b = a
      · simp [hb]
      · simp only [hb, if_false]
        exact Memory.read_filter_ne m hb
    · intro c hc
      simpa using (List.mem_filter.mp hc).2

/-- A cell read after a raw write. -/
theorem State.rawRead_rawWrite (s : State) (a b v : Word) :
    (s.rawWrite a v).rawRead b = if b = a then v else s.rawRead b := by
  unfold State.rawRead State.rawWrite
  simp only [Memory.read_write]
  by_cases h : b = a
  · simp [h]
  · have h' : b.toNat ≠ a.toNat := fun e => h (BitVec.eq_of_toNat_eq e)
    simp [h, h']

@[simp] theorem State.rawRead_rawWrite_self (s : State) (a v : Word) : (s.rawWrite a v).rawRead a = v := by
  simp [State.rawRead_rawWrite]

/-! ### The canonical form -/

theorem Memory.mem_insert {m : Memory} {a : Nat} {v : Word} {c : Nat × Word} :
    c ∈ Memory.insert m a v ↔ c = (a, v) ∨ c ∈ m := by
  induction m with
  | nil => simp [Memory.insert]
  | cons d m ih =>
    by_cases hlt : a < d.1
    · simp [Memory.insert, hlt]
    · simp only [Memory.insert, hlt, if_false, List.mem_cons, ih]
      exact or_left_comm

/-- Removing an address keeps the canonical form. -/
theorem Memory.wf_filter {m : Memory} (h : Memory.wf m) (p : Nat × Word → Bool) : Memory.wf (m.filter p) :=
  ⟨h.1.filter p, fun c hc => h.2 c (List.mem_filter.mp hc).1⟩

/-- Inserting a cell that is not 0x0000 at an unlisted address keeps the canonical form. -/
theorem Memory.wf_insert {m : Memory} (h : Memory.wf m) {a : Nat} {v : Word} (ha : a < 65536) (hv : v ≠ 0#16)
    (hm : ∀ c ∈ m, c.1 ≠ a) : Memory.wf (Memory.insert m a v) := by
  refine ⟨?_, ?_⟩
  · induction m with
    | nil => simp [Memory.insert]
    | cons d m ih =>
      have hd := List.pairwise_cons.mp h.1
      by_cases hlt : a < d.1
      · simp only [Memory.insert, hlt, if_true]
        refine List.pairwise_cons.mpr ⟨?_, h.1⟩
        intro c hc
        rcases List.mem_cons.mp hc with rfl | hc
        · exact hlt
        · exact Nat.lt_trans hlt (hd.1 c hc)
      · simp only [Memory.insert, hlt, if_false]
        refine List.pairwise_cons.mpr ⟨?_, ih ⟨hd.2, fun c hc => h.2 c (by simp [hc])⟩
          (fun c hc => hm c (by simp [hc]))⟩
        intro c hc
        rcases Memory.mem_insert.mp hc with rfl | hc
        · have := hm d (by simp)
          show d.1 < a
          omega
        · exact hd.1 c hc
  · intro c hc
    rcases Memory.mem_insert.mp hc with rfl | hc
    · exact ⟨ha, hv⟩
    · exact h.2 c hc

/-- A cell write keeps the canonical form. -/
theorem Memory.wf_write {m : Memory} (h : Memory.wf m) {a : Nat} (ha : a < 65536) (v : Word) :
    Memory.wf (Memory.write m a v) := by
  unfold Memory.write
  by_cases hv : v = 0#16
  · simp only [hv, if_true]
    exact Memory.wf_filter h _
  · simp only [hv, if_false]
    refine Memory.wf_insert (Memory.wf_filter h _) ha hv (fun c hc => ?_)
    simpa using (List.mem_filter.mp hc).2

/-- A raw write keeps the canonical form. -/
theorem State.wf_rawWrite {s : State} (h : Memory.wf s.mem) (a v : Word) : Memory.wf (s.rawWrite a v).mem :=
  Memory.wf_write h a.isLt v

/-- The loader's copy keeps the canonical form. -/
theorem wf_placeWords (ov : Config.LoadOverflow) {m : Memory} (h : Memory.wf m) (a : Nat) (vs : List Word) :
    Memory.wf (placeWords ov m a vs) := by
  induction vs generalizing m a with
  | nil => exact h
  | cons v vs ih =>
    unfold placeWords
    split
    · exact ih (Memory.wf_write h ‹_› v) _
    · split
      · exact ih (Memory.wf_write h (Nat.mod_lt _ (by decide)) v) _
      · exact h

end Sys2Proof.Machine
end

