-- ==== Sys2Proof/Laws/Ops.lean ====
section
/-! SUPPORT. What each shared operation can do, said once: the poll, the memory read, the fetch, the input read and the
two outcomes raiseFault and hold. -/

namespace Sys2Proof.Machine

/-! ### The poll and MemRead -/

/-- The host's answer is Ready with the next byte, when there is one and the host chooses so. -/
theorem State.pollAnswer_eq_some {s : State} {b : Byte} :
    s.pollAnswer = some b ↔ ∃ rest, s.input = b :: rest ∧ s.nextDraw = true := by
  unfold State.pollAnswer
  cases s.input with
  | nil => simp
  | cons c rest => by_cases h : s.nextDraw <;> simp [h]

/-- The host's answer is NotReady, when there is no byte or the host chooses so. -/
theorem State.pollAnswer_eq_none {s : State} :
    s.pollAnswer = none ↔ s.input = [] ∨ s.nextDraw = false := by
  unfold State.pollAnswer
  cases s.input with
  | nil => simp
  | cons c rest => by_cases h : s.nextDraw <;> simp [h]

/-- A poll changes nothing but memory and the host's fields. -/
theorem State.poll_frame (s : State) :
    s.poll.regs = s.regs ∧ s.poll.pc = s.pc ∧ s.poll.cond = s.cond ∧ s.poll.status = s.status ∧
      s.poll.out = s.out ∧ s.poll.params = s.params := by
  unfold State.poll
  split
  · by_cases h : s.params.pollConsumes <;> simp [h]
  · simp

@[simp] theorem State.poll_regs (s : State) : s.poll.regs = s.regs := s.poll_frame.1
@[simp] theorem State.poll_pc (s : State) : s.poll.pc = s.pc := s.poll_frame.2.1
@[simp] theorem State.poll_cond (s : State) : s.poll.cond = s.cond := s.poll_frame.2.2.1
@[simp] theorem State.poll_status (s : State) : s.poll.status = s.status := s.poll_frame.2.2.2.1
@[simp] theorem State.poll_out (s : State) : s.poll.out = s.out := s.poll_frame.2.2.2.2.1
@[simp] theorem State.poll_params (s : State) : s.poll.params = s.params := s.poll_frame.2.2.2.2.2

@[simp] theorem State.poll_reg (s : State) (r : RegId) : s.poll.reg r = s.reg r := by
  simp [State.reg]

/-- What a ready poll leaves in every cell. -/
theorem State.rawRead_poll_ready {s : State} {b : Byte} (h : s.pollAnswer = some b) (a : Word) :
    s.poll.rawRead a =
      if a = s.params.kbdrAddr then zext8 b else if a = s.params.kbsrAddr then 0x8000#16 else s.rawRead a := by
  unfold State.poll
  simp only [h]
  by_cases hc : s.params.pollConsumes <;> simp [hc, State.rawRead_rawWrite]

/-- What a not-ready poll leaves in every cell. -/
theorem State.rawRead_poll_notReady {s : State} (h : s.pollAnswer = none) (a : Word) :
    s.poll.rawRead a = if a = s.params.kbsrAddr then 0x0000#16 else s.rawRead a := by
  unfold State.poll
  simp only [h, State.rawRead_rawWrite, State.takeDraw_rawRead]

/-- A poll keeps the canonical form of memory. -/
theorem State.wf_poll {s : State} (h : Memory.wf s.mem) : Memory.wf s.poll.mem := by
  have ht : Memory.wf s.takeDraw.mem := by simpa using h
  unfold State.poll
  split
  · by_cases hc : s.params.pollConsumes
    · simp only [hc, if_true, State.dropInput_mem]
      exact State.wf_rawWrite (State.wf_rawWrite ht _ _) _ _
    · simp only [hc, if_false, Bool.false_eq_true]
      exact State.wf_rawWrite (State.wf_rawWrite ht _ _) _ _
  · exact State.wf_rawWrite ht _ _

/-- The state after a MemRead is the state itself, or, at the status cell, the state after a poll. -/
theorem State.afterRead_cases (s : State) (a : Word) :
    (a ≠ s.params.kbsrAddr ∧ s.afterRead a = s) ∨ (a = s.params.kbsrAddr ∧ s.afterRead a = s.poll) := by
  unfold State.afterRead
  by_cases h : a = s.params.kbsrAddr <;> simp [h]

/-- A MemRead off the status cell has no side effect. -/
theorem State.memRead_of_ne {s : State} {a : Word} (h : a ≠ s.params.kbsrAddr) :
    s.memRead a = (s.rawRead a, s) := by
  simp [State.memRead, State.afterRead, h]

/-- A MemRead of the status cell polls first. -/
theorem State.memRead_kbsr (s : State) :
    s.memRead s.params.kbsrAddr = (s.poll.rawRead s.params.kbsrAddr, s.poll) := by
  simp [State.memRead, State.afterRead]

/-- A MemRead changes nothing but memory and the host's fields. -/
theorem State.memRead_frame (s : State) (a : Word) :
    (s.memRead a).2.regs = s.regs ∧ (s.memRead a).2.pc = s.pc ∧ (s.memRead a).2.cond = s.cond ∧
      (s.memRead a).2.status = s.status ∧ (s.memRead a).2.out = s.out ∧ (s.memRead a).2.params = s.params := by
  rcases s.afterRead_cases a with ⟨_, e⟩ | ⟨_, e⟩ <;> simp [State.memRead, e]

@[simp] theorem State.memRead_regs (s : State) (a : Word) : (s.memRead a).2.regs = s.regs := (s.memRead_frame a).1
@[simp] theorem State.memRead_pc (s : State) (a : Word) : (s.memRead a).2.pc = s.pc := (s.memRead_frame a).2.1
@[simp] theorem State.memRead_cond (s : State) (a : Word) : (s.memRead a).2.cond = s.cond := (s.memRead_frame a).2.2.1
@[simp] theorem State.memRead_status (s : State) (a : Word) : (s.memRead a).2.status = s.status :=
  (s.memRead_frame a).2.2.2.1
@[simp] theorem State.memRead_out (s : State) (a : Word) : (s.memRead a).2.out = s.out := (s.memRead_frame a).2.2.2.2.1
@[simp] theorem State.memRead_params (s : State) (a : Word) : (s.memRead a).2.params = s.params :=
  (s.memRead_frame a).2.2.2.2.2

@[simp] theorem State.memRead_reg (s : State) (a : Word) (r : RegId) : (s.memRead a).2.reg r = s.reg r := by
  simp [State.reg]

/-- A MemRead keeps the canonical form of memory. -/
theorem State.wf_memRead {s : State} (h : Memory.wf s.mem) (a : Word) : Memory.wf (s.memRead a).2.mem := by
  rcases s.afterRead_cases a with ⟨_, e⟩ | ⟨_, e⟩
  · simpa [State.memRead, e] using h
  · simpa only [State.memRead, e] using State.wf_poll h

/-! ### The fetch -/

/-- The fetch changes PC, memory by a poll, and the host's fields. -/
theorem State.fetch_frame (s : State) :
    s.fetch.2.regs = s.regs ∧ s.fetch.2.pc = s.pc + 1#16 ∧ s.fetch.2.cond = s.cond ∧
      s.fetch.2.status = s.status ∧ s.fetch.2.out = s.out ∧ s.fetch.2.params = s.params := by
  simp [State.fetch]

/-- The fetch off the status cell. -/
theorem State.fetch_of_ne {s : State} (h : s.pc ≠ s.params.kbsrAddr) :
    s.fetch = (s.rawRead s.pc, s.setPc (s.pc + 1#16)) := by
  simp [State.fetch, State.memRead_of_ne h]

/-- The fetch keeps the canonical form of memory. -/
theorem State.wf_fetch {s : State} (h : Memory.wf s.mem) : Memory.wf s.fetch.2.mem := by
  simpa [State.fetch] using State.wf_memRead h s.pc

/-! ### Input and outcomes -/

/-- InRead gives the next byte and the stream without it. -/
theorem State.inRead_eq_some {s t : State} {b : Byte} :
    s.inRead = some (b, t) ↔ ∃ rest, s.input = b :: rest ∧ t = s.dropInput := by
  unfold State.inRead
  cases s.input with
  | nil => simp
  | cons c rest =>
    simp only [Option.some.injEq, Prod.mk.injEq, List.cons.injEq]
    constructor
    · rintro ⟨rfl, rfl⟩
      exact ⟨rest, ⟨rfl, rfl⟩, rfl⟩
    · rintro ⟨_, ⟨rfl, _⟩, rfl⟩
      exact ⟨rfl, rfl⟩

/-- InRead gives nothing exactly when no byte is supplied. -/
theorem State.inRead_eq_none {s : State} : s.inRead = none ↔ s.input = [] := by
  unfold State.inRead
  cases s.input <;> simp

/-- Raising a fault changes the status and nothing else. -/
theorem raiseFault_eq_next {f : FaultRecord} {s t : State} :
    raiseFault f s = .next t ↔ t = s.setStatus (.faulted f) := by
  simp [raiseFault, eq_comm]

/-- Holding puts PC back at the instruction and changes nothing else. -/
theorem hold_eq_next {s t : State} : hold s = .next t ↔ t = s.setPc s.instrAddr := by
  simp [hold, eq_comm]

/-- A running core runs the fetched instruction. -/
theorem step_of_running {s : State} (h : s.status = .running) : step s = exec (decode s.fetch.1) s.fetch.2 := by
  simp [step, State.stopReason, h]

/-- A step that answers a next state started in a running core. -/
theorem running_of_step_eq_next {s t : State} (h : step s = .next t) :
    s.status = .running ∧ exec (decode s.fetch.1) s.fetch.2 = .next t := by
  unfold step State.stopReason at h
  cases hs : s.status with
  | running => exact ⟨rfl, by simpa [hs] using h⟩
  | halted => simp [hs] at h
  | faulted f => simp [hs] at h

end Sys2Proof.Machine
end

