-- ==== Sys2Proof/Laws/Exec.lean ====
section
/-! SUPPORT. What the operations behind several instructions can do, said once: the flag of a value, the end of a
flag-setting instruction, the end of GETC and IN, the branch, JSRR, the string scan and the routines that may hold or
fault. -/

namespace Sys2Proof.Machine

/-! ### Flags and results -/

/-- `condOf` is R22's classification. -/
theorem condIs_condOf (v : Word) : CondIs v (condOf v) := by
  unfold CondIs condOf
  rw [BitVec.msb_eq_decide]
  by_cases h : 32768 ≤ v.toNat
  · simp [h]
  · by_cases h0 : v = 0#16
    · subst h0; simp
    · have : v.toNat ≠ 0 := fun e => h0 (BitVec.eq_of_toNat_eq (by simpa using e))
      simp [h, h0]; omega

/-- A result written to a state that differs from `s` in memory and host fields only. -/
theorem resultWritten_writeResult {s u : State} (d : RegId) (v : Word) (hr : u.regs = s.regs) (hp : u.pc = s.pc)
    (hc : SameControl s u) : ResultWritten s (u.writeResult d v) d v := by
  refine ⟨by simp, fun r h => ?_, by simpa using condIs_condOf v, by simpa using hp, by simpa [SameControl] using hc⟩
  simp [State.reg_setReg, h]
  simp [State.reg, hr]

/-- The end of GETC and IN changes R0 and COND only. -/
theorem State.inputResult_frame (s : State) (b : Byte) :
    (s.inputResult b).pc = s.pc ∧ (s.inputResult b).status = s.status ∧ (s.inputResult b).out = s.out ∧
      (s.inputResult b).params = s.params ∧ (s.inputResult b).mem = s.mem ∧ (s.inputResult b).draws = s.draws ∧
      (s.inputResult b).freeDraws = s.freeDraws ∧ (s.inputResult b).input = s.input := by
  unfold State.inputResult
  split <;> simp

/-- The byte that OUT, PUTS and PUTSP write first. -/
theorem lowByte_eq_ofNat (w : Word) : lowByte w = BitVec.ofNat 8 w.toNat := by
  apply BitVec.eq_of_toNat_eq
  rw [lowByte, toNat_bitField]
  simp

/-- The byte that PUTSP writes second. -/
theorem highByte_eq_ofNat (w : Word) : highByte w = BitVec.ofNat 8 (w.toNat / 256) := by
  apply BitVec.eq_of_toNat_eq
  rw [highByte, toNat_bitField]
  simp

/-! ### The branch and JSRR -/

/-- A BR leaves the state, sets PC to its target, or raises CondUnset. -/
theorem execBr_cases {n z p : Bool} {off : BitVec 9} {s t : State} (h : execBr n z p off s = .next t) :
    t = s ∨ t = s.setPc (s.pcRel9 off) ∨
      (s.cond = .none ∧ s.params.condNonePolicy = .fault ∧ nzpBits n z p ≠ 0b000#3 ∧
        t = s.setStatus (.faulted (.condUnset (encode (.br n z p off)) s.instrAddr))) := by
  unfold execBr raiseFault at h
  split at h
  · cases h; exact .inl rfl
  · split at h
    · cases h; exact .inr (.inr ⟨by simp_all, by simp_all, ‹_›, rfl⟩)
    · split at h <;> cases h
      · exact .inr (.inl rfl)
      · exact .inl rfl

/-- JSRR under both link orders. -/
theorem execJsrr_eq_next {g : BitVec 2} {b : RegId} {k : BitVec 6} {s t : State} (h : execJsrr g b k s = .next t) :
    t = (s.setReg 7#3 s.pc).setPc (if b = 7#3 ∧ s.params.jsrrLinkOrder = .linkFirst then s.pc else s.reg b) := by
  unfold execJsrr at h
  split at h <;> cases h
  · rename_i e
    simp only [e, and_true]
    congr 1
    rw [State.reg_setReg]
  · rename_i e
    simp [e]

/-! ### The routines -/

/-- GETC holds or takes the next byte. -/
theorem routineGetc_cases {s t : State} (h : routineGetc s = .next t) :
    (s.input = [] ∧ t = s.setPc s.instrAddr) ∨ ∃ b r, s.input = b :: r ∧ t = s.dropInput.inputResult b := by
  cases e : s.input with
  | nil =>
    simp [routineGetc, State.inRead_eq_none.mpr e, hold] at h
    exact .inl ⟨rfl, h.symm⟩
  | cons b r =>
    simp [routineGetc, State.inRead_eq_some.mpr ⟨r, e, rfl⟩] at h
    exact .inr ⟨b, r, rfl, h.symm⟩

/-- IN holds or takes the next byte and writes prompt and echo. -/
theorem routineIn_cases {s t : State} (h : routineIn s = .next t) :
    (s.input = [] ∧ t = s.setPc s.instrAddr) ∨
      ∃ b r, s.input = b :: r ∧ t = (s.dropInput.inputResult b).emit (s.params.inPrompt ++ [b]) := by
  cases e : s.input with
  | nil =>
    simp [routineIn, State.inRead_eq_none.mpr e, hold] at h
    exact .inl ⟨rfl, h.symm⟩
  | cons b r =>
    simp [routineIn, State.inRead_eq_some.mpr ⟨r, e, rfl⟩] at h
    exact .inr ⟨b, r, rfl, by simp [← h]⟩

/-- An unknown vector does nothing or faults, by the policy. -/
theorem routineUnknown_cases {v : BitVec 8} {s t : State} (h : routineUnknown v s = .next t) :
    (s.params.unknownTrapPolicy = .nop ∧ t = s) ∨
      (s.params.unknownTrapPolicy = .fault ∧ t = s.setStatus (.faulted (.unknownTrapVector v s.instrAddr))) := by
  unfold routineUnknown raiseFault at h
  split at h <;> cases h
  · exact .inr ⟨‹_›, rfl⟩
  · exact .inl ⟨‹_›, rfl⟩

/-- PUTS and PUTSP write bytes or fault, by what the scan gives. -/
theorem routineString_cases {r : StringRoutine} {f : Word → List Byte} {s t : State}
    (h : routineString r f s = .next t) :
    (∃ buf, scanString f s (0x10000 - (s.reg 0#3).toNat) (s.reg 0#3) = .ok buf ∧ t = s.emit buf) ∨
      ∃ e, scanString f s (0x10000 - (s.reg 0#3).toNat) (s.reg 0#3) = .error e ∧
        t = s.setStatus (.faulted (.trapStringUnmodelled r e)) := by
  unfold routineString raiseFault at h
  split at h <;> cases h
  · exact .inl ⟨_, ‹_›, rfl⟩
  · exact .inr ⟨_, ‹_›, rfl⟩

/-! ### The string scan -/

theorem add_one_add_ofNat (a : Word) (j : Nat) : a + 1#16 + BitVec.ofNat 16 j = a + BitVec.ofNat 16 (j + 1) := by
  apply BitVec.eq_of_toNat_eq
  simp
  omega

theorem toNat_add_one {a : Word} (h : a.toNat + 1 < 65536) : (a + 1#16).toNat = a.toNat + 1 := by
  simp
  omega

/-- Over a string the scan gives the bytes of its cells. -/
theorem scanString_of_stringAt (f : Word → List Byte) (s : State) (str : List Word) :
    ∀ a : Word, StringAt s a str → scanString f s (65536 - a.toNat) a = .ok (str.flatMap f) := by
  induction str with
  | nil =>
    rintro a ⟨h1, _, _, h4, h5⟩
    have hk := h5 0 (by simp)
    rw [show 65536 - a.toNat = (65535 - a.toNat) + 1 by omega]
    simp at hk h4
    simp [scanString, hk, h4]
  | cons w str ih =>
    rintro a ⟨h1, h2, h3, h4, h5⟩
    simp only [List.length_cons] at *
    have hk := h5 0 (by simp)
    have hc := h3 0 (by simp)
    have nz := h2 w (by simp)
    simp at hk hc
    have sa := toNat_add_one (a := a) (by omega)
    have rest := ih (a + 1#16) ⟨by rw [sa]; omega, fun w hw => h2 w (by simp [hw]),
      fun j hj => by rw [add_one_add_ofNat, h3 (j + 1) (by omega)]; rfl,
      by rw [add_one_add_ofNat]; exact h4, fun j hj => by rw [add_one_add_ofNat]; exact h5 (j + 1) (by omega)⟩
    rw [show 65536 - a.toNat = (65536 - (a + 1#16).toNat) + 1 by rw [sa]; omega]
    simp only [scanString, rest]
    simp [hk, hc, nz]

/-- A scan that reaches the status cell stops there. -/
theorem scanString_of_kbsr (f : Word → List Byte) (s : State) (k : Nat) :
    ∀ a : Word, a.toNat + k < 65536 → ScannedOver s a k → a + BitVec.ofNat 16 k = s.params.kbsrAddr →
      scanString f s (65536 - a.toNat) a = .error s.params.kbsrAddr := by
  induction k with
  | zero =>
    intro a h1 _ h3
    rw [show 65536 - a.toNat = (65535 - a.toNat) + 1 by omega]
    simp at h3
    simp [scanString, h3]
  | succ k ih =>
    intro a h1 h2 h3
    have sa := toNat_add_one (a := a) (by omega)
    have rest := ih (a + 1#16) (by omega) (fun j hj => by rw [add_one_add_ofNat]; exact h2 (j + 1) (by omega))
      (by rw [add_one_add_ofNat]; exact h3)
    have q := h2 0 (by omega)
    simp at q
    rw [show 65536 - a.toNat = (65536 - (a + 1#16).toNat) + 1 by rw [sa]; omega]
    simp only [scanString, rest]
    simp [q]

/-- A scan that runs over the last cell stops at 0xFFFF. -/
theorem scanString_of_end (f : Word → List Byte) (s : State) (k : Nat) :
    ∀ a : Word, 65536 - a.toNat = k → ScannedOver s a k → scanString f s k a = .error 0xFFFF#16 := by
  induction k with
  | zero =>
    intro a h
    have := a.isLt
    omega
  | succ k ih =>
    intro a h1 h2
    have q := h2 0 (by omega)
    simp at q
    by_cases hk : k = 0
    · subst hk
      simp [scanString, q]
    · have sa := toNat_add_one (a := a) (by omega)
      have rest := ih (a + 1#16) (by omega) (fun j hj => by rw [add_one_add_ofNat]; exact h2 (j + 1) (by omega))
      simp [scanString, q, rest]

/-- A scan that stops gives the address where it stops. -/
theorem scanString_of_stopsAt (f : Word → List Byte) {s : State} {a e : Word} (h : ScanStopsAt s a e) :
    scanString f s (65536 - a.toNat) a = .error e := by
  rcases h with ⟨k, h1, h2, h3, h4⟩ | ⟨h1, rfl⟩
  · rw [h4]
    exact scanString_of_kbsr f s k a h1 h2 (by rw [← h3, h4])
  · exact scanString_of_end f s _ a rfl h1

end Sys2Proof.Machine
end

