-- ==== Sys2Proof/Laws/PerInstr.lean ====
section
/-! SUPPORT. The facts stated for every instruction, one lemma per constructor. EncodeOpcode: the word of an instruction
carries, in bits 15:12, the opcode of its row (spec/30_encoding.md R56). -/

namespace Sys2Proof.Laws.EncodeOpcode

/-- The encoder's word has the instruction's opcode in bits 15:12. -/
def Statement (i : Instr) : Prop := opcodeOf (encode i) = i.opcode

/-- What each case needs: the opcode is the top of the word's number. -/
theorem of_wordNat (i : Instr) (h : wordNat i / 4096 % 16 = i.opcode.toNat) : Statement i :=
  BitVec.eq_of_toNat_eq ((toNat_opcodeOf_encode i).trans h)

theorem addReg (d a : RegId) (g : BitVec 2) (b : RegId) : Statement (.addReg d a g b) := by
  apply of_wordNat
  simp only [wordNat, Instr.opcode, BitVec.toNat_ofNat]
  omega

theorem addImm (d a : RegId) (imm : BitVec 5) : Statement (.addImm d a imm) := by
  apply of_wordNat
  simp only [wordNat, Instr.opcode, BitVec.toNat_ofNat]
  omega

theorem andReg (d a : RegId) (g : BitVec 2) (b : RegId) : Statement (.andReg d a g b) := by
  apply of_wordNat
  simp only [wordNat, Instr.opcode, BitVec.toNat_ofNat]
  omega

theorem andImm (d a : RegId) (imm : BitVec 5) : Statement (.andImm d a imm) := by
  apply of_wordNat
  simp only [wordNat, Instr.opcode, BitVec.toNat_ofNat]
  omega

theorem not (d a : RegId) (g : BitVec 6) : Statement (.not d a g) := by
  apply of_wordNat
  simp only [wordNat, Instr.opcode, BitVec.toNat_ofNat]
  omega

theorem ld (d : RegId) (off : BitVec 9) : Statement (.ld d off) := by
  apply of_wordNat
  simp only [wordNat, Instr.opcode, BitVec.toNat_ofNat]
  omega

theorem ldi (d : RegId) (off : BitVec 9) : Statement (.ldi d off) := by
  apply of_wordNat
  simp only [wordNat, Instr.opcode, BitVec.toNat_ofNat]
  omega

theorem ldr (d b : RegId) (off : BitVec 6) : Statement (.ldr d b off) := by
  apply of_wordNat
  simp only [wordNat, Instr.opcode, BitVec.toNat_ofNat]
  omega

theorem lea (d : RegId) (off : BitVec 9) : Statement (.lea d off) := by
  apply of_wordNat
  simp only [wordNat, Instr.opcode, BitVec.toNat_ofNat]
  omega

theorem st (r : RegId) (off : BitVec 9) : Statement (.st r off) := by
  apply of_wordNat
  simp only [wordNat, Instr.opcode, BitVec.toNat_ofNat]
  omega

theorem sti (r : RegId) (off : BitVec 9) : Statement (.sti r off) := by
  apply of_wordNat
  simp only [wordNat, Instr.opcode, BitVec.toNat_ofNat]
  omega

theorem str (r b : RegId) (off : BitVec 6) : Statement (.str r b off) := by
  apply of_wordNat
  simp only [wordNat, Instr.opcode, BitVec.toNat_ofNat]
  omega

theorem br (n z p : Bool) (off : BitVec 9) : Statement (.br n z p off) := by
  apply of_wordNat
  simp only [wordNat, Instr.opcode, BitVec.toNat_ofNat]
  have := n.toNat_lt
  have := z.toNat_lt
  have := p.toNat_lt
  omega

theorem jmp (g : BitVec 3) (b : RegId) (h : BitVec 6) : Statement (.jmp g b h) := by
  apply of_wordNat
  simp only [wordNat, Instr.opcode, BitVec.toNat_ofNat]
  omega

theorem jsr (off : BitVec 11) : Statement (.jsr off) := by
  apply of_wordNat
  simp only [wordNat, Instr.opcode, BitVec.toNat_ofNat]
  omega

theorem jsrr (g : BitVec 2) (b : RegId) (h : BitVec 6) : Statement (.jsrr g b h) := by
  apply of_wordNat
  simp only [wordNat, Instr.opcode, BitVec.toNat_ofNat]
  omega

theorem trap (g : BitVec 4) (v : BitVec 8) : Statement (.trap g v) := by
  apply of_wordNat
  simp only [wordNat, Instr.opcode, BitVec.toNat_ofNat]
  omega

theorem trapGetc (g : BitVec 4) : Statement (.trapGetc g) := by
  apply of_wordNat
  simp only [wordNat, Instr.opcode, BitVec.toNat_ofNat]
  omega

theorem trapOut (g : BitVec 4) : Statement (.trapOut g) := by
  apply of_wordNat
  simp only [wordNat, Instr.opcode, BitVec.toNat_ofNat]
  omega

theorem trapPuts (g : BitVec 4) : Statement (.trapPuts g) := by
  apply of_wordNat
  simp only [wordNat, Instr.opcode, BitVec.toNat_ofNat]
  omega

theorem trapIn (g : BitVec 4) : Statement (.trapIn g) := by
  apply of_wordNat
  simp only [wordNat, Instr.opcode, BitVec.toNat_ofNat]
  omega

theorem trapPutsp (g : BitVec 4) : Statement (.trapPutsp g) := by
  apply of_wordNat
  simp only [wordNat, Instr.opcode, BitVec.toNat_ofNat]
  omega

theorem trapHalt (g : BitVec 4) : Statement (.trapHalt g) := by
  apply of_wordNat
  simp only [wordNat, Instr.opcode, BitVec.toNat_ofNat]
  omega

theorem trapUnknown (g : BitVec 4) (v : BitVec 8) : Statement (.trapUnknown g v) := by
  apply of_wordNat
  simp only [wordNat, Instr.opcode, BitVec.toNat_ofNat]
  omega

theorem reserved8 (g : BitVec 12) : Statement (.reserved8 g) := by
  apply of_wordNat
  simp only [wordNat, Instr.opcode, BitVec.toNat_ofNat]
  omega

theorem reservedD (g : BitVec 12) : Statement (.reservedD g) := by
  apply of_wordNat
  simp only [wordNat, Instr.opcode, BitVec.toNat_ofNat]
  omega

end Sys2Proof.Laws.EncodeOpcode
end

