-- ==== Sys2Proof/Tests/Slice0.lean ====
section
/-! SUPPORT. Tests: words written out bit by bit from spec/30_encoding.md R58, ill-formed terms, single steps with the
expected results of spec/95_test_vectors.md, and for every obligation with hypotheses a witness that meets them. -/

namespace Sys2Proof.Tests

open Sys2Proof.Machine

/-! ### Well-formedness -/

theorem test_wellFormed_refuses_whole_trap_row : (Instr.trap 0#4 0x21#8).wellFormed = false := by decide
theorem test_wellFormed_refuses_unknown_of_getc : (Instr.trapUnknown 0#4 0x20#8).wellFormed = false := by decide
theorem test_wellFormed_refuses_unknown_of_halt : (Instr.trapUnknown 0#4 0x25#8).wellFormed = false := by decide
theorem test_wellFormed_takes_unknown : (Instr.trapUnknown 0#4 0x26#8).wellFormed = true := by decide

/-! ### Decoding: opcode, then each field of R58, from bit 15 down -/

theorem test_decode_addReg : decode 0b0001_011_001_0_00_010#16 = .addReg 3#3 1#3 0#2 2#3 := by decide
theorem test_decode_addReg_ign : decode 0b0001_000_000_0_11_000#16 = .addReg 0#3 0#3 3#2 0#3 := by decide
theorem test_decode_addImm : decode 0b0001_000_001_1_11110#16 = .addImm 0#3 1#3 0b11110#5 := by decide
theorem test_decode_andReg : decode 0b0101_000_001_0_00_010#16 = .andReg 0#3 1#3 0#2 2#3 := by decide
theorem test_decode_andImm : decode 0b0101_001_010_1_10000#16 = .andImm 1#3 2#3 0b10000#5 := by decide
theorem test_decode_not : decode 0b1001_100_101_111111#16 = .not 4#3 5#3 0b111111#6 := by decide
theorem test_decode_ld : decode 0b0010_001_000000100#16 = .ld 1#3 4#9 := by decide
theorem test_decode_ldi : decode 0b1010_010_000000010#16 = .ldi 2#3 2#9 := by decide
theorem test_decode_ldr : decode 0b0110_100_011_111110#16 = .ldr 4#3 3#3 0b111110#6 := by decide
theorem test_decode_lea : decode 0b1110_110_111111110#16 = .lea 6#3 0x1FE#9 := by decide
theorem test_decode_st : decode 0b0011_001_000001111#16 = .st 1#3 0xF#9 := by decide
theorem test_decode_sti : decode 0b1011_010_000000001#16 = .sti 2#3 1#9 := by decide
theorem test_decode_str : decode 0b0111_010_001_000011#16 = .str 2#3 1#3 3#6 := by decide
theorem test_decode_br_n : decode 0b0000_100_000000000#16 = .br true false false 0#9 := by decide
theorem test_decode_br_p : decode 0b0000_001_111111101#16 = .br false false true 0x1FD#9 := by decide
theorem test_decode_jmp : decode 0b1100_001_010_100000#16 = .jmp 1#3 2#3 0x20#6 := by decide
theorem test_decode_jsr : decode 0b0100_1_10000000010#16 = .jsr 0x402#11 := by decide
theorem test_decode_jsrr : decode 0b0100_0_10_011_000001#16 = .jsrr 2#2 3#3 1#6 := by decide
theorem test_decode_getc : decode 0b1111_0000_00100000#16 = .trapGetc 0#4 := by decide
theorem test_decode_out : decode 0b1111_0001_00100001#16 = .trapOut 1#4 := by decide
theorem test_decode_puts : decode 0b1111_0010_00100010#16 = .trapPuts 2#4 := by decide
theorem test_decode_in : decode 0b1111_0000_00100011#16 = .trapIn 0#4 := by decide
theorem test_decode_putsp : decode 0b1111_0000_00100100#16 = .trapPutsp 0#4 := by decide
theorem test_decode_halt : decode 0b1111_1111_00100101#16 = .trapHalt 0xF#4 := by decide
theorem test_decode_unknown_above : decode 0b1111_0000_00100110#16 = .trapUnknown 0#4 0x26#8 := by decide
theorem test_decode_unknown_below : decode 0b1111_0000_00011111#16 = .trapUnknown 0#4 0x1F#8 := by decide
theorem test_decode_reserved8 : decode 0b1000_000000000001#16 = .reserved8 1#12 := by decide
theorem test_decode_reservedD : decode 0b1101_111111111111#16 = .reservedD 0xFFF#12 := by decide
theorem test_decode_whole_trap_row : decode (encode (.trap 3#4 0x21#8)) = .trapOut 3#4 := by decide
theorem test_encode_whole_trap_row : encode (.trap 3#4 0x21#8) = 0b1111_0011_00100001#16 := by decide
theorem test_decodeTableWord : decodeTableWord 16 0x1642 = some (.addReg 3#3 1#3 0#2 2#3) := by decide

/-! ### Single steps -/

/-- R6's defaults with values for the OPEN parameters, so that a test can be evaluated. -/
def params : Config.Params :=
  { Config.defaults with trapInputSetsFlags := true, haltNotice := [0x21#8], inPrompt := [0x3E#8], loadOverflow := .wrap }

/-- Reset with these parameters, PC at `pc` and these cells. -/
def at_ (pc : Word) (mem : Memory) : State := { State.reset with params := params, pc := pc, mem := mem }

/-- The step answers a next state of which `p` holds. -/
def gives (s : State) (p : State → Bool) : Bool :=
  match step s with
  | .next t => p t
  | _ => false

/-- 95 O1. -/
theorem test_addReg : gives (((at_ 0x3000#16 [(0x3000, 0x1642#16)]).setReg 1#3 3#16).setReg 2#3 0xFFFE#16)
    (fun t => t.reg 3#3 == 1#16 && t.cond == .p && t.pc == 0x3001#16) = true := by decide
/-- 95 O7. -/
theorem test_addReg_ignores_bits : gives ((at_ 0x3000#16 [(0x3000, 0x1018#16)]).setReg 0#3 3#16)
    (fun t => t.reg 0#3 == 6#16 && t.cond == .p) = true := by decide
/-- 95 O4. -/
theorem test_addImm_signed_overflow : gives ((at_ 0x3000#16 [(0x3000, 0x1261#16)]).setReg 1#3 0x7FFF#16)
    (fun t => t.reg 1#3 == 0x8000#16 && t.cond == .n) = true := by decide
/-- 95 O5, S4. -/
theorem test_addImm_wraps : gives ((at_ 0x3000#16 [(0x3000, 0x1021#16)]).setReg 0#3 0xFFFF#16)
    (fun t => t.reg 0#3 == 0#16 && t.cond == .z) = true := by decide
/-- 95 O8. -/
theorem test_andReg : gives (((at_ 0x3000#16 [(0x3000, 0x5042#16)]).setReg 1#3 0xF0#16).setReg 2#3 0xF0F#16)
    (fun t => t.reg 0#3 == 0#16 && t.cond == .z) = true := by decide
/-- 95 O9. -/
theorem test_andImm : gives ((at_ 0x3000#16 [(0x3000, 0x5270#16)]).setReg 1#3 0x1234#16)
    (fun t => t.reg 1#3 == 0x1230#16 && t.cond == .p) = true := by decide
/-- 95 O10. -/
theorem test_andImm_negative : gives ((at_ 0x3000#16 [(0x3000, 0x56FF#16)]).setReg 3#3 0x8001#16)
    (fun t => t.reg 3#3 == 0x8001#16 && t.cond == .n) = true := by decide
/-- 95 O11. -/
theorem test_not : gives ((at_ 0x3000#16 [(0x3000, 0x997F#16)]).setReg 5#3 0xFF#16)
    (fun t => t.reg 4#3 == 0xFF00#16 && t.cond == .n) = true := by decide
/-- 95 O12. -/
theorem test_not_ignores_bits : gives (at_ 0x3000#16 [(0x3000, 0x9000#16)])
    (fun t => t.reg 0#3 == 0xFFFF#16 && t.cond == .n) = true := by decide
/-- 95 L1. -/
theorem test_ld : gives (at_ 0x3000#16 [(0x3000, 0x2204#16), (0x3005, 0x8001#16)])
    (fun t => t.reg 1#3 == 0x8001#16 && t.cond == .n) = true := by decide
/-- 95 L2. -/
theorem test_ld_wraps : gives (at_ 0xFFFF#16 [(0xFFFF, 0x2001#16)])
    (fun t => t.reg 0#3 == 0#16 && t.cond == .z && t.pc == 0#16) = true := by decide
/-- 95 L4. -/
theorem test_ldi_polls_ready : gives { at_ 0x3000#16 [(0x3000, 0xA001#16), (0x3002, 0xFE00#16)] with input := [0x7A#8], draws := [true] }
    (fun t => t.reg 0#3 == 0x8000#16 && t.cond == .n && t.rawRead 0xFE00#16 == 0x8000#16 &&
      t.rawRead 0xFE02#16 == 0x7A#16 && t.input == []) = true := by decide
/-- 95 S5. -/
theorem test_ldi : gives (at_ 0x3000#16 [(0x3000, 0xA402#16), (0x3003, 0x4000#16), (0x4000, 0x1234#16)])
    (fun t => t.reg 2#3 == 0x1234#16 && t.cond == .p) = true := by decide
/-- 95 L7. -/
theorem test_ldr : gives ((at_ 0x3000#16 [(0x3000, 0x68FF#16), (0x3FFF, 0x42#16)]).setReg 3#3 0x4000#16)
    (fun t => t.reg 4#3 == 0x42#16 && t.cond == .p) = true := by decide
/-- 95 L8. -/
theorem test_ldr_wraps : gives ((at_ 0x3000#16 [(0, 0x1111#16), (0x3000, 0x6241#16)]).setReg 1#3 0xFFFF#16)
    (fun t => t.reg 1#3 == 0x1111#16 && t.cond == .p) = true := by decide
/-- 95 L9. -/
theorem test_lea : gives (at_ 0x3000#16 [(0x3000, 0xE1FF#16)])
    (fun t => t.reg 0#3 == 0x3000#16 && t.cond == .p) = true := by decide
/-- 95 L11. -/
theorem test_lea_wraps : gives (at_ 0xFFFF#16 [(0xFFFF, 0xE000#16)])
    (fun t => t.reg 0#3 == 0#16 && t.cond == .z && t.pc == 0#16) = true := by decide
/-- 95 W1. -/
theorem test_st : gives ((at_ 0x3000#16 [(0x3000, 0x320F#16)]).setReg 1#3 0xBEEF#16)
    (fun t => t.rawRead 0x3010#16 == 0xBEEF#16 && t.cond == .none) = true := by decide
/-- 95 W6: the stored word is the next instruction. -/
theorem test_st_next_instruction : gives ((at_ 0x3000#16 [(0x3000, 0x3200#16), (0x3001, 0x1021#16)]).setReg 1#3 0xF025#16)
    (fun t => decode t.fetch.1 == .trapHalt 0#4) = true := by decide
/-- 95 W2. -/
theorem test_sti : gives ((at_ 0x3000#16 [(0x3000, 0xB401#16), (0x3002, 0x4000#16)]).setReg 2#3 7#16)
    (fun t => t.rawRead 0x4000#16 == 7#16) = true := by decide
/-- 95 W3. -/
theorem test_sti_over_pointer : gives ((at_ 0x3000#16 [(0x3000, 0xB001#16), (0x3002, 0x3002#16)]).setReg 0#3 0x9999#16)
    (fun t => t.rawRead 0x3002#16 == 0x9999#16) = true := by decide
/-- 95 W4. -/
theorem test_str : gives (((at_ 0x3000#16 [(0x3000, 0x7441#16)]).setReg 1#3 0x300B#16).setReg 2#3 0x2A#16)
    (fun t => t.rawRead 0x300C#16 == 0x2A#16) = true := by decide
/-- 95 W5: the store keeps the value in the status cell, and the next MemRead polls over it. -/
theorem test_str_status_cell : gives (((at_ 0x3000#16 [(0x3000, 0x72C0#16)]).setReg 1#3 0x1234#16).setReg 3#3 0xFE00#16)
    (fun t => t.rawRead 0xFE00#16 == 0x1234#16 && (t.memRead 0xFE00#16).1 == 0#16) = true := by decide
/-- 95 B1. -/
theorem test_br_taken : gives ((at_ 0x3005#16 [(0x3005, 0x03FD#16)]).setCond .p)
    (fun t => t.pc == 0x3003#16) = true := by decide
/-- 95 B5. -/
theorem test_br_cond_none : gives (at_ 0x3000#16 [(0x3000, 0x0E00#16)])
    (fun t => t.status == .faulted (.condUnset 0x0E00#16 0x3000#16) && t.pc == 0x3001#16) = true := by decide
/-- 95 J1. -/
theorem test_jmp : gives ((at_ 0x3000#16 [(0x3000, 0xC080#16)]).setReg 2#3 0x4000#16)
    (fun t => t.pc == 0x4000#16) = true := by decide
/-- 95 J2. -/
theorem test_ret : gives ((at_ 0x3000#16 [(0x3000, 0xC1C0#16)]).setReg 7#3 0x3005#16)
    (fun t => t.pc == 0x3005#16) = true := by decide
/-- 95 J4. -/
theorem test_jsr_wraps : gives (at_ 0xFFFF#16 [(0xFFFF, 0x4800#16)])
    (fun t => t.reg 7#3 == 0#16 && t.pc == 0#16) = true := by decide
/-- 95 J5. -/
theorem test_jsr_backwards : gives (at_ 0x3000#16 [(0x3000, 0x4FFF#16)])
    (fun t => t.reg 7#3 == 0x3001#16 && t.pc == 0x3000#16) = true := by decide
/-- 95 J7. -/
theorem test_jsrr_link_first : gives ((at_ 0x3000#16 [(0x3000, 0x41C0#16)]).setReg 7#3 0x5000#16)
    (fun t => t.reg 7#3 == 0x3001#16 && t.pc == 0x3001#16) = true := by decide
/-- 95 J8. -/
theorem test_jsrr_target_first : gives { (at_ 0x3000#16 [(0x3000, 0x41C0#16)]).setReg 7#3 0x5000#16 with
      params := { params with jsrrLinkOrder := .targetFirst } }
    (fun t => t.reg 7#3 == 0x3001#16 && t.pc == 0x5000#16) = true := by decide
/-- 95 T3. -/
theorem test_getc : gives { at_ 0x3000#16 [(0x3000, 0xF020#16)] with input := [0xFF#8] }
    (fun t => t.reg 0#3 == 0xFF#16 && t.cond == .p && t.out == [] && t.pc == 0x3001#16) = true := by decide
/-- 95 T4. -/
theorem test_getc_holds : gives (at_ 0x3000#16 [(0x3000, 0xF020#16)])
    (fun t => t == at_ 0x3000#16 [(0x3000, 0xF020#16)]) = true := by decide
/-- 95 T6. -/
theorem test_out : gives ((at_ 0x3000#16 [(0x3000, 0xF021#16)]).setReg 0#3 0x1241#16)
    (fun t => t.out == [0x41#8] && t.reg 0#3 == 0x1241#16) = true := by decide
/-- 95 S10. -/
theorem test_puts : gives ((at_ 0x3000#16 [(0x3000, 0xF022#16), (0x4000, 72#16), (0x4001, 105#16)]).setReg 0#3 0x4000#16)
    (fun t => t.out == [0x48#8, 0x69#8] && t.status == .running) = true := by decide
/-- 95 T9. -/
theorem test_puts_meets_status_cell : gives ((at_ 0x3000#16 [(0x3000, 0xF022#16), (0xFDFF, 0x41#16)]).setReg 0#3 0xFDFF#16)
    (fun t => t.status == .faulted (.trapStringUnmodelled .puts 0xFE00#16) && t.out == []) = true := by decide
/-- 95 T11. -/
theorem test_in : gives { at_ 0x3000#16 [(0x3000, 0xF023#16)] with input := [0x79#8] }
    (fun t => t.reg 0#3 == 0x79#16 && t.out == [0x3E#8, 0x79#8] && t.input == []) = true := by decide
/-- 95 T12. -/
theorem test_putsp : gives ((at_ 0x3000#16 [(0x3000, 0xF024#16), (0x4000, 0x6548#16), (0x4001, 0x6C#16)]).setReg 0#3 0x4000#16)
    (fun t => t.out == [0x48#8, 0x65#8, 0x6C#8]) = true := by decide
/-- 95 T13. -/
theorem test_putsp_zero_low_byte : gives ((at_ 0x3000#16 [(0x3000, 0xF024#16), (0x4000, 0x4100#16)]).setReg 0#3 0x4000#16)
    (fun t => t.out == [0x00#8, 0x41#8]) = true := by decide
/-- 95 T15. -/
theorem test_halt : gives (at_ 0x3000#16 [(0x3000, 0xFF25#16)])
    (fun t => t.status == .halted && t.pc == 0x3001#16 && t.out == [0x21#8]) = true := by decide
/-- 95 T16. -/
theorem test_unknown_faults : gives (at_ 0x3000#16 [(0x3000, 0xF026#16)])
    (fun t => t.status == .faulted (.unknownTrapVector 0x26#8 0x3000#16) && t.pc == 0x3001#16) = true := by decide
/-- 95 T17. -/
theorem test_unknown_nop : gives { at_ 0x3000#16 [(0x3000, 0xF026#16)] with
      params := { params with unknownTrapPolicy := .nop } }
    (fun t => t.status == .running && t.pc == 0x3001#16 && t.out == []) = true := by decide
/-- 95 F3: the faulting fetch's poll is kept. -/
theorem test_reserved8_at_status_cell : gives { at_ 0xFE00#16 [] with input := [0x41#8], draws := [true] }
    (fun t => t.status == .faulted (.reservedOpcode 8#4 0x8000#16 0xFE00#16) && t.pc == 0xFE01#16 &&
      t.rawRead 0xFE02#16 == 0x41#16) = true := by decide
/-- 95 F5. -/
theorem test_reservedD : gives (at_ 0x3000#16 [(0x3000, 0xDFFF#16)])
    (fun t => t.status == .faulted (.reservedOpcode 0xD#4 0xDFFF#16 0x3000#16)) = true := by decide
/-- 44_trap.md R85: the whole TRAP row dispatches by the vector. -/
theorem test_whole_trap_row : exec (.trap 5#4 0x21#8) ((at_ 0x3001#16 []).setReg 0#3 0x1241#16) =
    .next (((at_ 0x3001#16 []).setReg 0#3 0x1241#16).emit [0x41#8]) := rfl
/-- 70_reset_and_hazards.md R104: 0x3000 is the origin, the words are big-endian. -/
theorem test_loadImage : ((at_ 0#16 []).loadImage [0x30#8, 0x00#8, 0xF0#8, 0x25#8]).map (·.mem) = some [(0x3000, 0xF025#16)] := by
  decide
/-- 92_eei_decisions.md D14: past 0xFFFF the load wraps under `wrap` and stops under `truncate`. -/
theorem test_load_overflow : placeWords .wrap [] 0xFFFF [1#16, 2#16] = [(0, 2#16), (0xFFFF, 1#16)] ∧
    placeWords .truncate [] 0xFFFF [1#16, 2#16] = [(0xFFFF, 1#16)] := by decide
/-- A word that a table row stands for is the next step's instruction. -/
theorem test_withFetchWord : gives (State.reset.withFetchWord 16 0x1025)
    (fun t => t.reg 0#3 == 5#16 && t.pc == 0x3001#16) = true := by decide

/-! ### Witnesses: for each obligation with hypotheses, states and operands that meet them, clause by clause -/

/-- The states the witnesses start from. -/
def w0 : State := at_ 0x3001#16 []

theorem witness_DecodeOfEncode_first_vector_below : (Instr.trapUnknown 0xF#4 0x1F#8).wellFormed = true := by decide
theorem witness_DecodeOfEncode_top_fields : (Instr.addReg 7#3 7#3 3#2 7#3).wellFormed = true := by decide

theorem witness_IgnoredBits_not : 0x9000#16 &&& ~~~ ignoredMask 0x9000#16 = 0x903F#16 &&& ~~~ ignoredMask 0x9000#16 ∧
    0x9000#16 >>> 12 ≠ 0x8#16 ∧ 0x9000#16 >>> 12 ≠ 0xD#16 := by decide
theorem witness_IgnoredBits_trap : 0xF025#16 &&& ~~~ ignoredMask 0xF025#16 = 0xFF25#16 &&& ~~~ ignoredMask 0xF025#16 ∧
    0xF025#16 >>> 12 ≠ 0x8#16 ∧ 0xF025#16 >>> 12 ≠ 0xD#16 := by decide
theorem witness_IgnoredBits_reserved : 0x8000#16 &&& ~~~ ignoredMask 0x8000#16 = 0x8FFF#16 &&& ~~~ ignoredMask 0x8000#16 ∧
    (0x8000#16 >>> 12 = 0x8#16 ∨ 0x8000#16 >>> 12 = 0xD#16) := by decide
theorem witness_IgnoredBits_reservedD : 0xD000#16 &&& ~~~ ignoredMask 0xD000#16 = 0xDFFF#16 &&& ~~~ ignoredMask 0xD000#16 ∧
    (0xD000#16 >>> 12 = 0x8#16 ∨ 0xD000#16 >>> 12 = 0xD#16) := by decide

/-- Both branches of `sext` at their boundary (95, 2.1). -/
theorem witness_SignExtension : sext 0b10000#5 = 0xFFF0#16 ∧ sext 0b01111#5 = 0x000F#16 ∧ sext 0b100000#6 = 0xFFE0#16 ∧
    sext 0b011111#6 = 0x001F#16 ∧ sext 0x100#9 = 0xFF00#16 ∧ sext 0x0FF#9 = 0x00FF#16 ∧ sext 0x400#11 = 0xFC00#16 ∧
    sext 0x3FF#11 = 0x03FF#16 := by decide
/-- The three flags at the ends of their ranges (10_state.md R22). -/
theorem witness_Setcc : condOf 0x8000#16 = .n ∧ condOf 0xFFFF#16 = .n ∧ condOf 0#16 = .z ∧ condOf 1#16 = .p ∧
    condOf 0x7FFF#16 = .p := by decide

theorem witness_CondWritten_setter : (∃ t, exec (.addReg 0#3 1#3 0#2 2#3) w0 = .next t) ∧
    (Instr.addReg 0#3 1#3 0#2 2#3).setsFlagsFrom = some 0#3 := ⟨⟨_, rfl⟩, rfl⟩
theorem witness_CondWritten_input_sets : (∃ t, exec (.trapGetc 0#4) { w0 with input := [0#8] } = .next t) ∧
    (Instr.trapGetc 0#4).readsInput = true ∧ { w0 with input := [0#8] }.input ≠ [] ∧
    { w0 with input := [0#8] }.params.trapInputSetsFlags = true := ⟨⟨_, rfl⟩, by decide⟩
theorem witness_CondWritten_input_held : (∃ t, exec (.trapIn 0#4) w0 = .next t) ∧ (Instr.trapIn 0#4).readsInput = true ∧
    w0.input = [] := ⟨⟨_, rfl⟩, by decide⟩
/-- GETC with a byte while `TRAP_INPUT_SETS_FLAGS` is false. -/
def wNoFlags : State := { w0 with input := [0#8], params := { params with trapInputSetsFlags := false } }
theorem witness_CondWritten_input_keeps : (∃ t, exec (.trap 0#4 0x20#8) wNoFlags = .next t) ∧
    (Instr.trap 0#4 0x20#8).readsInput = true ∧ wNoFlags.input ≠ [] ∧ wNoFlags.params.trapInputSetsFlags = false :=
  ⟨⟨_, rfl⟩, by decide⟩
theorem witness_CondWritten_other : (∃ t, exec (.st 1#3 0xF#9) w0 = .next t) ∧ (Instr.st 1#3 0xF#9).setsFlagsFrom = none ∧
    (Instr.st 1#3 0xF#9).readsInput = false := ⟨⟨_, rfl⟩, by decide⟩
theorem witness_OnlyBranchReadsCond : (∀ n z p off, Instr.not 1#3 2#3 0#6 ≠ .br n z p off) ∧
    ∃ t, exec (.not 1#3 2#3 0#6) w0 = .next t := ⟨by simp, _, rfl⟩
theorem witness_CondNeverReturns : ((at_ 0x3000#16 []).setCond .p).cond ≠ .none ∧
    ∃ t, step ((at_ 0x3000#16 []).setCond .p) = .next t := ⟨by decide, _, rfl⟩

theorem witness_Poll_ready : ∃ s : State, s.params.kbsrAddr ≠ s.params.kbdrAddr ∧ s.pollAnswer = some 0xFF#8 :=
  ⟨{ w0 with input := [0xFF#8, 1#8], draws := [true] }, by decide⟩
theorem witness_Poll_no_byte : w0.params.kbsrAddr ≠ w0.params.kbdrAddr ∧ w0.pollAnswer = none := by decide
theorem witness_Poll_not_ready : ∃ s : State, s.params.kbsrAddr ≠ s.params.kbdrAddr ∧ s.input ≠ [] ∧ s.pollAnswer = none :=
  ⟨{ w0 with input := [1#8], draws := [false] }, by decide⟩
theorem witness_PollAnswer_listed : ∃ s : State, s.draws = false :: [true] := ⟨{ w0 with draws := [false, true] }, rfl⟩
theorem witness_PollAnswer_free : w0.draws = [] := rfl
theorem witness_MemRead_beside_status_cell : 0xFE01#16 ≠ w0.params.kbsrAddr ∧ 0xFDFF#16 ≠ w0.params.kbsrAddr := by decide
theorem witness_MemRead_status_cell : 0xFE00#16 = w0.params.kbsrAddr ∧ w0.params.kbsrAddr ≠ w0.params.kbdrAddr := by decide
theorem witness_DataCell_ready : ∃ s : State, s.params.kbsrAddr ≠ s.params.kbdrAddr ∧ s.pollAnswer = some 0#8 :=
  ⟨{ w0 with input := [0#8], draws := [true] }, by decide⟩
theorem witness_DataCell_not_ready : w0.params.kbsrAddr ≠ w0.params.kbdrAddr ∧ w0.pollAnswer = none := by decide

theorem witness_StoreFetch_st : w0.pc ≠ w0.params.kbsrAddr ∧ (∃ t, exec (.st 1#3 0#9) w0 = .next t) ∧
    w0.pc + sext 0#9 = w0.pc := ⟨by decide, ⟨_, rfl⟩, by decide⟩
theorem witness_StoreFetch_str : (w0.setReg 2#3 0x3002#16).pc ≠ w0.params.kbsrAddr ∧
    (∃ t, exec (.str 1#3 2#3 0x3F#6) (w0.setReg 2#3 0x3002#16) = .next t) ∧
    (w0.setReg 2#3 0x3002#16).reg 2#3 + sext 0x3F#6 = w0.pc := ⟨by decide, ⟨_, rfl⟩, by decide⟩
/-- A pointer cell that points at the next instruction. -/
def wPointer : State := at_ 0x3001#16 [(0x3002, 0x3001#16)]
theorem witness_StoreFetch_sti : wPointer.pc ≠ wPointer.params.kbsrAddr ∧ (∃ t, exec (.sti 1#3 1#9) wPointer = .next t) ∧
    wPointer.pc + sext 1#9 ≠ wPointer.params.kbsrAddr ∧ wPointer.rawRead (wPointer.pc + sext 1#9) = wPointer.pc :=
  ⟨by decide, ⟨_, rfl⟩, by decide⟩
theorem witness_StoreFetch_status_cell : (at_ 0xFE00#16 []).pc = (at_ 0xFE00#16 []).params.kbsrAddr ∧
    (at_ 0xFE00#16 []).params.kbsrAddr ≠ (at_ 0xFE00#16 []).params.kbdrAddr := by decide

/-- LD off the status cell, by one on either side, and on it. -/
theorem witness_Ld : (0xFDFF#16 + sext 0#9 ≠ params.kbsrAddr) ∧ (0xFE00#16 + sext 1#9 ≠ params.kbsrAddr) ∧
    (0xFDFF#16 + sext 1#9 = params.kbsrAddr ∧ params.kbsrAddr ≠ params.kbdrAddr) := by decide
/-- LDI and STI: a plain pointer cell with a plain pointer; a plain one with the status cell; the status cell itself. -/
theorem witness_Ldi_Sti : wPointer.pc + sext 1#9 ≠ params.kbsrAddr ∧
    wPointer.rawRead (wPointer.pc + sext 1#9) ≠ params.kbsrAddr ∧
    (at_ 0x3001#16 [(0x3002, 0xFE00#16)]).rawRead (0x3001#16 + sext 1#9) = params.kbsrAddr ∧
    (at_ 0xFDFF#16 []).pc + sext 1#9 = params.kbsrAddr ∧ params.kbsrAddr ≠ params.kbdrAddr := by decide
/-- LDR at offset 0 with the base one below the status cell. -/
theorem witness_Ldr : (w0.setReg 1#3 0xFDFF#16).reg 1#3 + sext 0#6 ≠ params.kbsrAddr := by decide

theorem witness_Br_no_bits : (false = false ∧ false = false ∧ false = false) ∧ w0.cond = .none := by decide
theorem witness_Br_none_faults : (false = true ∨ false = true ∨ true = true) ∧ w0.cond = .none ∧
    w0.params.condNonePolicy = .fault := by decide
theorem witness_Br_none_no_branch : ∃ s : State, (true = true ∨ false = true ∨ false = true) ∧ s.cond = .none ∧
    s.params.condNonePolicy = .noBranch :=
  ⟨{ w0 with params := { params with condNonePolicy := .noBranch } }, by decide⟩
theorem witness_Br_taken : CondMatches true false false (w0.setCond .n).cond ∧
    CondMatches false true false (w0.setCond .z).cond ∧ CondMatches false false true (w0.setCond .p).cond := by
  unfold CondMatches; decide
theorem witness_Br_not_taken : (w0.setCond .p).cond ≠ .none ∧ ¬ CondMatches true true false (w0.setCond .p).cond := by
  unfold CondMatches; decide
theorem witness_NoOpBranches_offset_zero : (w0.setCond .z).cond ≠ .none ∧
    (w0.setCond .z).params.condNonePolicy = .fault := by decide
theorem witness_NoOpBranches_offset_zero_none : ∃ s : State, s.cond = .none ∧ s.params.condNonePolicy = .noBranch :=
  ⟨{ w0 with params := { params with condNonePolicy := .noBranch } }, by decide⟩
theorem witness_NoOpBranches_zero_word : (at_ 0xFFFF#16 []).status = .running ∧ (at_ 0xFFFF#16 []).pc ≠ params.kbsrAddr ∧
    (at_ 0xFFFF#16 []).rawRead (at_ 0xFFFF#16 []).pc = 0x0000#16 := by decide
theorem witness_Jsrr_other_base : (6#3 : RegId) ≠ 7#3 ∧ (0#3 : RegId) ≠ 7#3 := by decide
theorem witness_Jsrr_link_first : (7#3 : RegId) = 7#3 ∧ w0.params.jsrrLinkOrder = .linkFirst := by decide
theorem witness_Jsrr_target_first : ∃ s : State, (7#3 : RegId) = 7#3 ∧ s.params.jsrrLinkOrder = .targetFirst :=
  ⟨{ w0 with params := { params with jsrrLinkOrder := .targetFirst } }, by decide⟩

theorem witness_Trap_other_vectors : (0x21#8 ≠ 0x20#8 ∧ 0x21#8 ≠ 0x23#8) ∧ (0xFF#8 ≠ 0x20#8 ∧ 0xFF#8 ≠ 0x23#8) := by decide
theorem witness_Getc_In_byte : { w0 with input := [0xFF#8] }.input = 0xFF#8 :: [] := rfl
theorem witness_Getc_In_empty : w0.input = [] := rfl
/-- InputTaken's two cases of the parameter. -/
theorem witness_InputTaken_flags : w0.params.trapInputSetsFlags = true ∧ wNoFlags.params.trapInputSetsFlags = false := by decide
/-- The empty string in the last cell. -/
theorem witness_StringAt_last_cell : StringAt (at_ 0x3001#16 []) 0xFFFF#16 [] :=
  ⟨by decide, nofun, nofun, by decide, fun j h => by obtain rfl : j = 0 := Nat.le_zero.mp h; decide⟩
/-- A string whose terminator is the cell before the status cell. -/
theorem witness_StringAt_below_status_cell : StringAt ((at_ 0x3001#16 [(0xFDFE, 0x41#16)]).setReg 0#3 0xFDFE#16)
    (((at_ 0x3001#16 [(0xFDFE, 0x41#16)]).setReg 0#3 0xFDFE#16).reg 0#3) [0x41#16] :=
  ⟨by decide, fun w h => by rw [List.mem_singleton.mp h]; decide,
    fun j h => by obtain rfl : j = 0 := Nat.lt_one_iff.mp h; revert h; decide, by decide,
    fun j h => by obtain rfl | rfl : j = 0 ∨ j = 1 := Nat.le_one_iff_eq_zero_or_eq_one.mp h <;> decide⟩
/-- 95 T9: the scan meets the status cell. -/
theorem witness_ScanStops_status_cell : ScanStopsAt ((at_ 0x3001#16 [(0xFDFF, 0x41#16)]).setReg 0#3 0xFDFF#16)
    (((at_ 0x3001#16 [(0xFDFF, 0x41#16)]).setReg 0#3 0xFDFF#16).reg 0#3) 0xFE00#16 :=
  .inl ⟨1, by unfold ScannedOver; decide⟩
/-- The scan starts at the status cell. -/
theorem witness_ScanStops_at_once : ScanStopsAt (w0.setReg 0#3 0xFE00#16) ((w0.setReg 0#3 0xFE00#16).reg 0#3) 0xFE00#16 :=
  .inl ⟨0, by unfold ScannedOver; decide⟩
/-- 95 T10: the scan runs over the last cell. -/
theorem witness_ScanStops_last_cell : ScanStopsAt ((at_ 0x3001#16 [(0xFFFF, 0x41#16)]).setReg 0#3 0xFFFF#16)
    (((at_ 0x3001#16 [(0xFFFF, 0x41#16)]).setReg 0#3 0xFFFF#16).reg 0#3) 0xFFFF#16 :=
  .inr (by unfold ScannedOver; decide)
theorem witness_Halt : ∃ t, exec (.trapHalt 0#4) w0 = .next t := ⟨_, rfl⟩
theorem witness_Unknown_faults : ((0x1F#8).toNat < 0x20 ∨ 0x25 < (0x1F#8).toNat) ∧ w0.params.unknownTrapPolicy = .fault := by
  decide
theorem witness_Unknown_nop : ∃ s : State, ((0x26#8).toNat < 0x20 ∨ 0x25 < (0x26#8).toNat) ∧
    s.params.unknownTrapPolicy = .nop := ⟨{ w0 with params := { params with unknownTrapPolicy := .nop } }, by decide⟩

theorem witness_FaultsArePrecise : (∃ t, step (at_ 0xFFFF#16 [(0xFFFF, 0x8000#16)]) = .next t ∧
    t.status = .faulted (.reservedOpcode 8#4 0x8000#16 0xFFFF#16)) ∧ (at_ 0xFFFF#16 []).pc ≠ params.kbsrAddr :=
  ⟨⟨_, rfl, by decide⟩, by decide⟩
/-- 95 F3. -/
theorem witness_FaultsArePrecise_status_cell : ∃ s : State, s.pc = s.params.kbsrAddr ∧
    ∃ t, step s = .next t ∧ t.status = .faulted (.reservedOpcode 8#4 0x8000#16 0xFE00#16) :=
  ⟨{ at_ 0xFE00#16 [] with input := [0x41#8], draws := [true] }, by decide, _, rfl, by decide⟩
theorem witness_FaultKind_reserved : (Instr.reserved8 0xFFF#12).wellFormed = true ∧ (∀ e, w0.status ≠ .faulted e) ∧
    ∃ t, exec (.reserved8 0xFFF#12) w0 = .next t ∧ t.status = .faulted (.reservedOpcode 8#4 0x8FFF#16 0x3000#16) :=
  ⟨rfl, nofun, _, rfl, by decide⟩
theorem witness_FaultKind_reservedD : (Instr.reservedD 0#12).wellFormed = true ∧ (∀ e, w0.status ≠ .faulted e) ∧
    ∃ t, exec (.reservedD 0#12) w0 = .next t ∧ t.status = .faulted (.reservedOpcode 0xD#4 0xD000#16 0x3000#16) :=
  ⟨rfl, nofun, _, rfl, by decide⟩
theorem witness_FaultKind_condUnset : (Instr.br true true true 0#9).wellFormed = true ∧ (∀ e, w0.status ≠ .faulted e) ∧
    ∃ t, exec (.br true true true 0#9) w0 = .next t ∧ t.status = .faulted (.condUnset 0x0E00#16 0x3000#16) :=
  ⟨rfl, nofun, _, rfl, by decide⟩
theorem witness_FaultKind_unknown : (Instr.trapUnknown 0#4 0xFF#8).wellFormed = true ∧ (∀ e, w0.status ≠ .faulted e) ∧
    ∃ t, exec (.trapUnknown 0#4 0xFF#8) w0 = .next t ∧ t.status = .faulted (.unknownTrapVector 0xFF#8 0x3000#16) :=
  ⟨by decide, nofun, _, rfl, by decide⟩
theorem witness_FaultKind_puts : (Instr.trapPuts 0#4).wellFormed = true ∧
    (∀ e, (w0.setReg 0#3 0xFE00#16).status ≠ .faulted e) ∧
    ∃ t, exec (.trapPuts 0#4) (w0.setReg 0#3 0xFE00#16) = .next t ∧
      t.status = .faulted (.trapStringUnmodelled .puts 0xFE00#16) := ⟨rfl, nofun, _, rfl, by decide⟩
theorem witness_FaultKind_putsp : (Instr.trapPutsp 0#4).wellFormed = true ∧
    (∀ e, (w0.setReg 0#3 0xFE00#16).status ≠ .faulted e) ∧
    ∃ t, exec (.trapPutsp 0#4) (w0.setReg 0#3 0xFE00#16) = .next t ∧
      t.status = .faulted (.trapStringUnmodelled .putsp 0xFE00#16) := ⟨rfl, nofun, _, rfl, by decide⟩

/-- GETC in the last cell, where PC wraps and the hold takes it back. -/
theorem witness_Held_getc : (at_ 0xFFFF#16 [(0xFFFF, 0xF020#16)]).status = .running ∧
    decode (at_ 0xFFFF#16 [(0xFFFF, 0xF020#16)]).fetch.1 = .trapGetc 0#4 ∧ (at_ 0xFFFF#16 []).input = [] := by decide
theorem witness_Held_in : (at_ 0x3000#16 [(0x3000, 0xF023#16)]).status = .running ∧
    decode (at_ 0x3000#16 [(0x3000, 0xF023#16)]).fetch.1 = .trapIn 0#4 ∧ (at_ 0x3000#16 []).input = [] := by decide
theorem witness_CoreSteps : w0.status = .running ∧ (w0.setStatus .halted).status = .halted ∧
    (w0.setStatus (.faulted (.condUnset 0#16 0#16))).status = .faulted (.condUnset 0#16 0#16) := by decide
theorem witness_OnlyHalt : ∃ t, step (at_ 0x3000#16 [(0x3000, 0xF025#16)]) = .next t ∧ t.endedNormally := ⟨_, rfl, by decide⟩
theorem witness_StepRuns : (at_ 0x3000#16 [(0x3000, 0x1025#16)]).status = .running ∧
    (at_ 0x3000#16 [(0x3000, 0x1025#16)]).memRead 0x3000#16 = (0x1025#16, at_ 0x3000#16 [(0x3000, 0x1025#16)]) ∧
    decode 0x1025#16 = .addImm 0#3 0#3 5#5 ∧ 0x3000#16 ≠ params.kbsrAddr := by decide
/-- A step whose fetch polls. -/
theorem witness_StepRuns_status_cell : (at_ 0xFE00#16 []).status = .running ∧ (at_ 0xFE00#16 []).pc = params.kbsrAddr ∧
    (∃ u, (at_ 0xFE00#16 []).memRead 0xFE00#16 = (0#16, u)) ∧ decode 0#16 = .br false false false 0#9 :=
  ⟨by decide, by decide, ⟨_, rfl⟩, by decide⟩
theorem witness_Fetch_wraps : (at_ 0xFFFF#16 []).pc ≠ (at_ 0xFFFF#16 []).params.kbsrAddr := by decide
/-- Every case of the PC table: the word at PC decodes to that case and the step answers a next state. -/
theorem witness_PcAfter : [0x0FFF#16, 0xC080#16, 0x4FFF#16, 0x41C0#16, 0x40C0#16, 0xF020#16, 0xF023#16, 0x1025#16].all
    (fun w => gives ((at_ 0x3000#16 [(0x3000, w)]).setCond .p) (fun _ => true)) = true := by decide
theorem witness_Registers : (∃ t, exec (.jsr 0#11) w0 = .next t) ∧ (Instr.jsr 0#11).writesReg ≠ some 6#3 := ⟨⟨_, rfl⟩, by decide⟩
theorem witness_Output_silent : (∃ t, exec (.trapGetc 0#4) w0 = .next t) ∧ (Instr.trapGetc 0#4).writesOut = false :=
  ⟨⟨_, rfl⟩, by decide⟩
theorem witness_Output_writer : (∃ t, exec (.trapOut 0#4) w0 = .next t) ∧ (Instr.trapOut 0#4).writesOut = true :=
  ⟨⟨_, rfl⟩, by decide⟩
/-- Reset itself meets the invariant and steps. -/
theorem witness_StepKeeps : State.reset.Inv ∧ ∃ t, step State.reset = .next t := ⟨by decide, _, rfl⟩
/-- An image that ends at the last cell; the cells below its origin are untouched. -/
theorem witness_ImageLoad : (0xFFFE#16).toNat + [1#16, 2#16].length ≤ 65536 ∧
    (0xFFFD#16).toNat < (0xFFFE#16).toNat ∧ 1 < [1#16, 2#16].length := by decide
/-- A cell just above an image. -/
theorem witness_ImageLoad_above : (0x3000#16).toNat + [1#16].length ≤ 65536 ∧
    (0x3000#16).toNat + [1#16].length ≤ (0x3001#16).toNat := by decide
theorem witness_Placed : 0xFFFF < 65536 ∧ State.reset.pc ≠ State.reset.params.kbsrAddr := by decide
theorem witness_Placed_status_cell : 0 < 65536 ∧ (at_ 0xFE00#16 []).pc = params.kbsrAddr := by decide

end Sys2Proof.Tests
end

section
/-! O6: sign and zero extension as the arithmetic of 00_scope.md R9, for every field width up to a word. -/

namespace Sys2Proof

/-- R9's formula at every width: a field whose top bit is 1 gains the ones above it, `2^16 - 2^n`. -/
theorem sext_toNat {n : Nat} (f : BitVec n) (hn : n ≤ 16) :
    (sext f).toNat = if f.getLsbD (n - 1) then f.toNat + (65536 - 2 ^ n) else f.toNat := by
  have hfits : f.toNat < 2 ^ 16 := Nat.lt_of_lt_of_le f.isLt (Nat.pow_le_pow_right (by decide) hn)
  rw [sext, BitVec.toNat_signExtend, BitVec.toNat_setWidth, Nat.mod_eq_of_lt hfits, BitVec.msb_eq_getLsbD_last]
  split <;> rfl

/-- A word has room for every bit of a byte. -/
@[simp] theorem zext8_toNat (b : Byte) : (zext8 b).toNat = b.toNat :=
  BitVec.toNat_setWidth_of_le (by decide)

/-- Settles O6: the four widths are instances of `sext_toNat`. -/
theorem signExtensionFillsHigherBits : Obligations.SignExtensionFillsHigherBits :=
  ⟨fun f => sext_toNat f (by decide), fun f => sext_toNat f (by decide), fun f => sext_toNat f (by decide),
    fun f => sext_toNat f (by decide), zext8_toNat⟩

end Sys2Proof
end

section
/-! What one run of an instruction can do, said once: `exec_effect` lists the ten shapes a next state can have, and the
frame of each field is read off the list. -/

namespace Sys2Proof

/-- The instructions that may leave PC elsewhere than at the next instruction (10_state.md R19): BR, JMP, JSR, JSRR. -/
def Instr.jumps : Instr → Bool
  | .br _ _ _ _ => true
  | .jmp _ _ _ => true
  | .jsr _ => true
  | .jsrr _ _ _ => true
  | _ => false

/-- An instruction that never writes COND (10_state.md R23). -/
def Instr.Plain (i : Instr) : Prop := i.setsFlagsFrom = none ∧ i.readsInput = false

/-- A flag setter writes the register that COND follows. -/
theorem Instr.writesReg_of_setsFlagsFrom {i : Instr} {d : RegId} (h : i.setsFlagsFrom = some d) :
    i.writesReg = some d := by
  cases i <;> simp_all [Instr.setsFlagsFrom, Instr.writesReg]

/-- The instructions that always write COND are neither GETC nor IN. -/
theorem Instr.readsInput_of_setsFlagsFrom {i : Instr} {d : RegId} (h : i.setsFlagsFrom = some d) :
    i.readsInput = false := by
  cases i <;> simp_all [Instr.setsFlagsFrom, Instr.readsInput]

/-- GETC and IN are not among the instructions that always write COND. -/
theorem Instr.setsFlagsFrom_of_readsInput {i : Instr} (h : i.readsInput = true) : i.setsFlagsFrom = none := by
  cases i <;> simp_all [Instr.readsInput, Instr.setsFlagsFrom]

/-- GETC and IN write R0. -/
theorem Instr.writesReg_of_readsInput {i : Instr} (h : i.readsInput = true) : i.writesReg = some 0#3 := by
  cases i <;> simp_all [Instr.readsInput, Instr.writesReg]

namespace Machine

/-! ### Reads before the write -/

/-- `u` is what some MemReads leave of `s` (20_memory.md R41). -/
inductive Reads (s : State) : State → Prop
  | refl : Reads s s
  | memRead {u : State} (hu : Reads s u) (a : Word) : Reads s (u.memRead a).2

/-- MemReads change nothing but memory and the host's fields. -/
theorem Reads.frame {s u : State} (h : Reads s u) :
    u.regs = s.regs ∧ u.pc = s.pc ∧ u.cond = s.cond ∧ u.status = s.status ∧ u.out = s.out ∧ u.params = s.params := by
  induction h with
  | refl => simp
  | memRead _ a ih => simpa using ih

theorem Reads.pc {s u : State} (h : Reads s u) : u.pc = s.pc := h.frame.2.1
theorem Reads.cond {s u : State} (h : Reads s u) : u.cond = s.cond := h.frame.2.2.1
theorem Reads.params {s u : State} (h : Reads s u) : u.params = s.params := h.frame.2.2.2.2.2

theorem Reads.reg {s u : State} (h : Reads s u) (r : RegId) : u.reg r = s.reg r := by
  simp [State.reg, h.frame.1]

/-! ### The shapes -/

/-- What a run of `i` from `s` (the state after the fetch) can leave. -/
inductive Effect (s : State) (i : Instr) : State → Prop
  /-- The flag setters, after the reads of a load. -/
  | result {u : State} {d : RegId} (v : Word) (hd : i.setsFlagsFrom = some d) (hu : Reads s u) :
      Effect s i (u.writeResult d v)
  /-- ST, STR, and STI after its pointer's read. -/
  | store {u : State} (a v : Word) (hi : i.Plain) (hu : Reads s u) : Effect s i (u.memWrite a v)
  /-- JMP, and a BR that is taken. -/
  | jump (a : Word) (hi : i.Plain) (hj : i.jumps = true) : Effect s i (s.setPc a)
  /-- JSR and JSRR. -/
  | link (a : Word) (hi : i.Plain) (hj : i.jumps = true) (hr : i.writesReg = some 7#3) :
      Effect s i ((s.setReg 7#3 s.pc).setPc a)
  /-- A BR that is not taken, and an unknown vector that is ignored. -/
  | stay (hi : i.Plain) : Effect s i s
  /-- A fault of 60_exceptions.md R93. -/
  | faults (f : FaultRecord) (hi : i.Plain) : Effect s i (s.setStatus (.faulted f))
  /-- OUT, PUTS and PUTSP. -/
  | writes (bs : List Byte) (hi : i.Plain) (ho : i.writesOut = true) : Effect s i (s.emit bs)
  /-- HALT. -/
  | halts (hi : i.Plain) (ho : i.writesOut = true) : Effect s i ((s.emit s.params.haltNotice).setStatus .halted)
  /-- GETC and IN with no input byte (30_encoding.md R62). -/
  | holds (hi : i.readsInput = true) (hs : s.input = []) : Effect s i (s.setPc s.instrAddr)
  /-- GETC and IN with an input byte; `echo` is empty for GETC. -/
  | takes {b : Byte} {rest : List Byte} (echo : List Byte) (hi : i.readsInput = true) (hs : s.input = b :: rest)
      (ho : i.writesOut = false → echo = []) : Effect s i ((s.dropInput.inputResult b).emit echo)

/-! ### The routines, for the routine's row and for the whole TRAP row -/

section Routines

variable {i : Instr} {s t : State}

theorem routineGetc_effect (h : routineGetc s = .next t) (hi : i.readsInput = true) : Effect s i t := by
  rcases routineGetc_cases h with ⟨hs, rfl⟩ | ⟨b, rest, hs, rfl⟩
  · exact .holds hi hs
  · simpa [State.emit] using Effect.takes [] hi hs (fun _ => rfl)

theorem routineIn_effect (h : routineIn s = .next t) (hi : i.readsInput = true) (ho : i.writesOut = true) :
    Effect s i t := by
  rcases routineIn_cases h with ⟨hs, rfl⟩ | ⟨b, rest, hs, rfl⟩
  · exact .holds hi hs
  · exact .takes _ hi hs (by simp [ho])

theorem routineOut_effect (h : routineOut s = .next t) (hi : i.Plain) (ho : i.writesOut = true) : Effect s i t := by
  cases h
  exact .writes _ hi ho

theorem routineString_effect {r : StringRoutine} {f : Word → List Byte} (h : routineString r f s = .next t)
    (hi : i.Plain) (ho : i.writesOut = true) : Effect s i t := by
  rcases routineString_cases h with ⟨buf, _, rfl⟩ | ⟨e, _, rfl⟩
  · exact .writes buf hi ho
  · exact .faults _ hi

theorem routineHalt_effect (h : routineHalt s = .next t) (hi : i.Plain) (ho : i.writesOut = true) : Effect s i t := by
  cases h
  exact .halts hi ho

theorem routineUnknown_effect {v : BitVec 8} (h : routineUnknown v s = .next t) (hi : i.Plain) : Effect s i t := by
  rcases routineUnknown_cases h with ⟨_, rfl⟩ | ⟨_, rfl⟩
  · exact .stay hi
  · exact .faults _ hi

/-- The dispatch of R85: the whole row does what the vector's routine does. -/
theorem execTrap_effect {g : BitVec 4} {v : BitVec 8} (h : execTrap g v s = .next t) : Effect s (.trap g v) t := by
  unfold execTrap at h
  split at h
  · subst v; exact routineGetc_effect h rfl
  split at h
  · subst v; exact routineOut_effect h ⟨rfl, rfl⟩ rfl
  split at h
  · subst v; exact routineString_effect h ⟨rfl, rfl⟩ rfl
  split at h
  · subst v; exact routineIn_effect h rfl rfl
  split at h
  · subst v; exact routineString_effect h ⟨rfl, rfl⟩ rfl
  split at h
  · subst v; exact routineHalt_effect h ⟨rfl, rfl⟩ rfl
  · exact routineUnknown_effect h ⟨rfl, by simp [Instr.readsInput, *]⟩

end Routines

/-- Every next state of an instruction has one of the shapes of `Effect`. -/
theorem exec_effect {i : Instr} {s t : State} (h : exec i s = .next t) : Effect s i t := by
  cases i with
  | addReg d a g b => cases h; exact .result _ rfl .refl
  | addImm d a imm => cases h; exact .result _ rfl .refl
  | andReg d a g b => cases h; exact .result _ rfl .refl
  | andImm d a imm => cases h; exact .result _ rfl .refl
  | not d a g => cases h; exact .result _ rfl .refl
  | ld d off => cases h; exact .result _ rfl (.memRead .refl _)
  | ldi d off => cases h; exact .result _ rfl (.memRead (.memRead .refl _) _)
  | ldr d b off => cases h; exact .result _ rfl (.memRead .refl _)
  | lea d off => cases h; exact .result _ rfl .refl
  | st r off => cases h; exact .store _ _ ⟨rfl, rfl⟩ .refl
  | sti r off => cases h; exact .store _ _ ⟨rfl, rfl⟩ (.memRead .refl _)
  | str r b off => cases h; exact .store _ _ ⟨rfl, rfl⟩ .refl
  | br n z p off =>
    rcases execBr_cases h with rfl | rfl | ⟨_, _, _, rfl⟩
    · exact .stay ⟨rfl, rfl⟩
    · exact .jump _ ⟨rfl, rfl⟩ rfl
    · exact .faults _ ⟨rfl, rfl⟩
  | jmp g b k => cases h; exact .jump _ ⟨rfl, rfl⟩ rfl
  | jsr off => cases h; exact .link _ ⟨rfl, rfl⟩ rfl rfl
  | jsrr g b k =>
    rw [execJsrr_eq_next (g := g) (k := k) h]
    exact .link _ ⟨rfl, rfl⟩ rfl rfl
  | trap g v => exact execTrap_effect h
  | trapGetc g => exact routineGetc_effect h rfl
  | trapOut g => exact routineOut_effect h ⟨rfl, rfl⟩ rfl
  | trapPuts g => exact routineString_effect h ⟨rfl, rfl⟩ rfl
  | trapIn g => exact routineIn_effect h rfl rfl
  | trapPutsp g => exact routineString_effect h ⟨rfl, rfl⟩ rfl
  | trapHalt g => exact routineHalt_effect h ⟨rfl, rfl⟩ rfl
  | trapUnknown g v => exact routineUnknown_effect h ⟨rfl, rfl⟩
  | reserved8 g => cases h; exact .faults _ ⟨rfl, rfl⟩
  | reservedD g => cases h; exact .faults _ ⟨rfl, rfl⟩

/-! ### Each field after a run -/

/-- The end of GETC and IN writes R0. -/
theorem State.inputResult_reg (s : State) (b : Byte) (r : RegId) :
    (s.inputResult b).reg r = if r = 0#3 then zext8 b else s.reg r := by
  unfold State.inputResult
  split <;> simp [State.reg_setReg]

/-- The end of GETC and IN sets COND from R0 exactly under `TRAP_INPUT_SETS_FLAGS`. -/
theorem State.inputResult_cond (s : State) (b : Byte) :
    (s.inputResult b).cond = if s.params.trapInputSetsFlags then condOf (zext8 b) else s.cond := by
  unfold State.inputResult
  split <;> simp [*]

@[simp] theorem State.inputResult_pc (s : State) (b : Byte) : (s.inputResult b).pc = s.pc := by
  obtain ⟨hpc, -⟩ := s.inputResult_frame b
  exact hpc

@[simp] theorem State.inputResult_params (s : State) (b : Byte) : (s.inputResult b).params = s.params := by
  obtain ⟨-, -, -, hparams, -⟩ := s.inputResult_frame b
  exact hparams

section Fields

variable {i : Instr} {s t : State}

/-- R16, R17: no register but the table's is written. -/
theorem Effect.reg (h : Effect s i t) {r : RegId} (hr : i.writesReg ≠ some r) : t.reg r = s.reg r := by
  cases h with
  | result v hd hu =>
    have hne := Instr.writesReg_of_setsFlagsFrom hd ▸ hr
    simp only [ne_eq, Option.some.injEq] at hne
    simp [State.reg_setReg, Ne.symm hne, hu.reg]
  | store a v hi hu => simp [State.memWrite, hu.reg]
  | link a hi hj hw =>
    have hne := hw ▸ hr
    simp only [ne_eq, Option.some.injEq] at hne
    simp [State.reg_setReg, Ne.symm hne]
  | takes echo hi hs ho =>
    have hne := Instr.writesReg_of_readsInput hi ▸ hr
    simp only [ne_eq, Option.some.injEq] at hne
    simp [State.inputResult_reg, Ne.symm hne]
  | jump | stay | faults | writes | halts | holds => simp

/-- R23: what COND holds after each kind of instruction. -/
theorem Effect.cond (h : Effect s i t) :
    (∃ d, i.setsFlagsFrom = some d ∧ CondIs (t.reg d) t.cond) ∨ (i.Plain ∧ t.cond = s.cond) ∨
      (i.readsInput = true ∧ s.input = [] ∧ t.cond = s.cond) ∨
      (i.readsInput = true ∧ s.input ≠ [] ∧
        if s.params.trapInputSetsFlags then CondIs (t.reg 0#3) t.cond else t.cond = s.cond) := by
  cases h with
  | result v hd hu => exact .inl ⟨_, hd, by simpa using condIs_condOf v⟩
  | store a v hi hu => exact .inr (.inl ⟨hi, hu.cond⟩)
  | jump _ hi | link _ hi | stay hi | faults _ hi | writes _ hi | halts hi => exact .inr (.inl ⟨hi, rfl⟩)
  | holds hi hs => exact .inr (.inr (.inl ⟨hi, hs, rfl⟩))
  | takes echo hi hs ho =>
    refine .inr (.inr (.inr ⟨hi, by simp [hs], ?_⟩))
    split <;> simp [State.inputResult_reg, State.inputResult_cond, condIs_condOf, *]

/-- R19: PC stays at the next instruction but for a jump and for GETC and IN, which may hold. -/
theorem Effect.pc (h : Effect s i t) (hj : i.jumps = false) (hr : i.readsInput = false) : t.pc = s.pc := by
  cases h with
  | result v hd hu | store a v hi hu => exact hu.pc
  | jump _ _ ht | link _ _ ht => simp [ht] at hj
  | stay | faults | writes | halts => rfl
  | holds hi | takes _ hi => simp [hi] at hr

/-- R30: no parameter is written. -/
theorem Effect.params (h : Effect s i t) : t.params = s.params := by
  cases h with
  | result v hd hu | store a v hi hu => exact hu.params
  | takes echo hi hs ho => simp
  | jump | link | stay | faults | writes | halts | holds => rfl

end Fields

end Machine

end Sys2Proof
end

section
/-! The statements about COND, the register file and the parameters that the shapes of `Effect` settle. -/

namespace Sys2Proof

open Machine

/-- Settles O53. -/
theorem registersWrittenByTheTable : Obligations.RegistersWrittenByTheTable :=
  fun _ _ _ h _ hr => (exec_effect h).reg hr

/-- Settles O58: the fetch keeps the parameters and so does every instruction. -/
theorem stepKeepsParameters : Obligations.StepKeepsParameters := by
  intro s t h
  obtain ⟨_, hexec⟩ := running_of_step_eq_next h
  simpa [State.fetch] using (exec_effect hexec).params

/-- Settles O8: the four ends of `Effect.cond` are the four cases of the statement. -/
theorem condWrittenOnlyByFlagSetters : Obligations.CondWrittenOnlyByFlagSetters := by
  intro i s t h
  rcases (exec_effect h).cond with ⟨d, hd, hc⟩ | ⟨⟨hf, hr⟩, hc⟩ | ⟨hr, hs, hc⟩ | ⟨hr, hs, hc⟩
  · simp [hd, hc, Instr.readsInput_of_setsFlagsFrom hd]
  · simp [hf, hr, hc]
  · simp [Instr.setsFlagsFrom_of_readsInput hr, hr, hs, hc]
  · refine ⟨by simp [Instr.setsFlagsFrom_of_readsInput hr], fun _ _ hp => ?_, fun _ hp => ?_, by simp [hr]⟩
    · simpa [hp] using hc
    · simpa [hp.resolve_left hs] using hc

/-- A value's flag is never NONE. -/
theorem Machine.CondIs.ne_none {v : Word} {c : Cond} (h : CondIs v c) : c ≠ .none := by
  rcases h with ⟨_, rfl⟩ | ⟨_, rfl⟩ | ⟨_, _, rfl⟩ <;> decide

/-- Settles O10: COND is unchanged or the flag of a value. -/
theorem condNeverReturnsToNone : Obligations.CondNeverReturnsToNone := by
  intro s t hs h
  obtain ⟨_, hexec⟩ := running_of_step_eq_next h
  have hfetch : s.fetch.2.cond ≠ .none := by simpa [State.fetch] using hs
  rcases (exec_effect hexec).cond with ⟨d, _, hc⟩ | ⟨_, hc⟩ | ⟨_, _, hc⟩ | ⟨_, _, hc⟩
  · exact hc.ne_none
  · exact hc ▸ hfetch
  · exact hc ▸ hfetch
  · split at hc
    · exact hc.ne_none
    · exact hc ▸ hfetch

end Sys2Proof
end

section
/-! What a run does not read: COND (10_state.md R23; a BR aside) and the output (R29). A run from a state with another
COND and another output before is the same run, seen through `State.veil`. -/

namespace Sys2Proof.Machine

/-- `s` with another COND and another output. -/
def State.veil (s : State) (c : Cond) (o : List Byte) : State := { s with cond := c, out := o }

section Veil

variable (s : State) (c : Cond) (o : List Byte)

theorem State.veil_self : s.veil s.cond s.out = s := rfl
theorem State.setCond_eq_veil : s.setCond c = s.veil c s.out := rfl

@[simp] theorem State.veil_regs : (s.veil c o).regs = s.regs := rfl
@[simp] theorem State.veil_pc : (s.veil c o).pc = s.pc := rfl
@[simp] theorem State.veil_cond : (s.veil c o).cond = c := rfl
@[simp] theorem State.veil_out : (s.veil c o).out = o := rfl
@[simp] theorem State.veil_params : (s.veil c o).params = s.params := rfl
@[simp] theorem State.veil_input : (s.veil c o).input = s.input := rfl
@[simp] theorem State.veil_reg (r : RegId) : (s.veil c o).reg r = s.reg r := rfl
@[simp] theorem State.veil_rawRead (a : Word) : (s.veil c o).rawRead a = s.rawRead a := rfl
@[simp] theorem State.veil_instrAddr : (s.veil c o).instrAddr = s.instrAddr := rfl
@[simp] theorem State.veil_pollAnswer : (s.veil c o).pollAnswer = s.pollAnswer := rfl
@[simp] theorem State.veil_veil (c' : Cond) (o' : List Byte) : (s.veil c o).veil c' o' = s.veil c' o' := rfl

@[simp] theorem State.veil_setReg (r : RegId) (v : Word) : (s.veil c o).setReg r v = (s.setReg r v).veil c o := rfl
@[simp] theorem State.veil_setPc (v : Word) : (s.veil c o).setPc v = (s.setPc v).veil c o := rfl
@[simp] theorem State.veil_setStatus (st : Status) : (s.veil c o).setStatus st = (s.setStatus st).veil c o := rfl
@[simp] theorem State.veil_rawWrite (a v : Word) : (s.veil c o).rawWrite a v = (s.rawWrite a v).veil c o := rfl
@[simp] theorem State.veil_dropInput : (s.veil c o).dropInput = s.dropInput.veil c o := rfl
@[simp] theorem State.veil_emit (bs : List Byte) : (s.veil c o).emit bs = s.veil c (o ++ bs) := rfl
@[simp] theorem State.veil_writeResult (d : RegId) (v : Word) :
    (s.veil c o).writeResult d v = (s.setReg d v).veil (condOf v) o := rfl

@[simp] theorem State.veil_takeDraw : (s.veil c o).takeDraw = s.takeDraw.veil c o := by
  obtain ⟨_, _, _, _, _, _, _, _, draws, _⟩ := s
  cases draws <;> rfl

@[simp] theorem State.veil_poll : (s.veil c o).poll = s.poll.veil c o := by
  unfold State.poll
  cases h : s.pollAnswer with
  | none => simp [h]
  | some b => by_cases hp : s.params.pollConsumes <;> simp [h, hp]

@[simp] theorem State.veil_memRead (a : Word) :
    (s.veil c o).memRead a = ((s.memRead a).1, (s.memRead a).2.veil c o) := by
  by_cases ha : a = s.params.kbsrAddr <;> simp [State.memRead, State.afterRead, ha]

/-- COND after GETC and IN, by `TRAP_INPUT_SETS_FLAGS`. -/
@[simp] theorem State.veil_inputResult (b : Byte) :
    (s.veil c o).inputResult b =
      (s.setReg 0#3 (zext8 b)).veil (bif s.params.trapInputSetsFlags then condOf (zext8 b) else c) o := by
  by_cases hp : s.params.trapInputSetsFlags <;> simp [State.inputResult, hp]

/-- The scan of PUTS and PUTSP reads memory and the status cell's address only. -/
@[simp] theorem scanString_veil (f : Word → List Byte) (k : Nat) (a : Word) :
    scanString f (s.veil c o) k a = scanString f s k a := by
  induction k generalizing a with
  | zero => rfl
  | succ k ih => simp [scanString, ih]

end Veil

/-! ### Blind runs -/

/-- COND may be `c` instead before a run of `i`: anything, but for a BR only what it is. -/
def CondFree (i : Instr) (s : State) (c : Cond) : Prop := (∀ n z p off, i ≠ .br n z p off) ∨ c = s.cond

/-- The run `F` of `i` from `s` appends the same bytes to whatever output stood before, none if `i` is no writer of R29;
and the next state is one state `t` but for the output and COND, whatever COND was. -/
def Blind (i : Instr) (F : State → Host.Outcome State Fault Refusal) (s : State) : Prop :=
  ∃ (bs : List Byte) (t : State), (i.writesOut = false → bs = []) ∧
    ∀ c, CondFree i s c → ∃ c', ∀ o, F (s.veil c o) = .next (t.veil c' (o ++ bs))

section Shapes

variable {i : Instr} {F : State → Host.Outcome State Fault Refusal} {s : State}

/-- A run that writes a result and its flag. -/
theorem Blind.result (u : State) (d : RegId) (v : Word)
    (h : ∀ c o, F (s.veil c o) = .next ((u.veil c o).writeResult d v)) : Blind i F s :=
  ⟨[], u.setReg d v, fun _ => rfl, fun c _ => ⟨condOf v, fun o => by simp [h]⟩⟩

/-- A run that leaves COND and the output alone. -/
theorem Blind.keeps (t : State) (h : ∀ c o, CondFree i s c → F (s.veil c o) = .next (t.veil c o)) : Blind i F s :=
  ⟨[], t, fun _ => rfl, fun c hc => ⟨c, fun o => by simp [h c o hc]⟩⟩

/-- A run that leaves COND alone and writes bytes. -/
theorem Blind.emits (t : State) (bs : List Byte) (ho : i.writesOut = true)
    (h : ∀ c o, F (s.veil c o) = .next (t.veil c (o ++ bs))) : Blind i F s :=
  ⟨bs, t, by simp [ho], fun c _ => ⟨c, h c⟩⟩

end Shapes

section Routines

variable {i : Instr} {s : State}

theorem routineGetc_blind : Blind i routineGetc s := by
  cases hs : s.input with
  | nil => exact .keeps (s.setPc s.instrAddr) fun c o _ => by simp [routineGetc, State.inRead, hs, hold]
  | cons b rest =>
    exact ⟨[], s.dropInput.setReg 0#3 (zext8 b), fun _ => rfl, fun c _ =>
      ⟨bif s.params.trapInputSetsFlags then condOf (zext8 b) else c, fun o => by
        simp [routineGetc, State.inRead, hs]⟩⟩

theorem routineIn_blind (ho : i.writesOut = true) : Blind i routineIn s := by
  cases hs : s.input with
  | nil => exact .keeps (s.setPc s.instrAddr) fun c o _ => by simp [routineIn, State.inRead, hs, hold]
  | cons b rest =>
    exact ⟨s.params.inPrompt ++ [b], s.dropInput.setReg 0#3 (zext8 b), by simp [ho], fun c _ =>
      ⟨bif s.params.trapInputSetsFlags then condOf (zext8 b) else c, fun o => by
        simp [routineIn, State.inRead, hs]⟩⟩

theorem routineOut_blind (ho : i.writesOut = true) : Blind i routineOut s :=
  .emits s [lowByte (s.reg 0#3)] ho fun _ _ => rfl

theorem routineString_blind (r : StringRoutine) (f : Word → List Byte) (ho : i.writesOut = true) :
    Blind i (routineString r f) s := by
  cases hscan : scanString f s (0x10000 - (s.reg 0#3).toNat) (s.reg 0#3) with
  | ok buf => exact .emits s buf ho fun c o => by simp [routineString, hscan]
  | error e =>
    exact .keeps (s.setStatus (.faulted (.trapStringUnmodelled r e))) fun c o _ => by
      simp [routineString, hscan, raiseFault]

theorem routineHalt_blind (ho : i.writesOut = true) : Blind i routineHalt s :=
  .emits (s.setStatus .halted) s.params.haltNotice ho fun _ _ => rfl

theorem routineUnknown_blind (v : BitVec 8) : Blind i (routineUnknown v) s := by
  cases hp : s.params.unknownTrapPolicy with
  | fault =>
    exact .keeps (s.setStatus (.faulted (.unknownTrapVector v s.instrAddr))) fun c o _ => by
      simp [routineUnknown, hp, raiseFault]
  | nop => exact .keeps s fun c o _ => by simp [routineUnknown, hp]

theorem reservedFault_blind (w : Word) : Blind i (reservedFault w) s :=
  .keeps (s.setStatus (.faulted (.reservedOpcode (opcodeOf w) w s.instrAddr))) fun _ _ _ => rfl

/-- The dispatch of R85: the whole row does what the vector's routine does. -/
theorem execTrap_blind (g : BitVec 4) (v : BitVec 8) : Blind (.trap g v) (execTrap g v) s := by
  unfold execTrap
  split
  · exact routineGetc_blind
  split
  · subst v; exact routineOut_blind rfl
  split
  · subst v; exact routineString_blind _ _ rfl
  split
  · subst v; exact routineIn_blind rfl
  split
  · subst v; exact routineString_blind _ _ rfl
  split
  · subst v; exact routineHalt_blind rfl
  · exact routineUnknown_blind v

/-- A BR reads COND: it is blind to the output only. -/
theorem execBr_blind (n z p : Bool) (off : BitVec 9) : Blind (.br n z p off) (execBr n z p off) s := by
  have hblind : ∃ t : State, ∀ o, execBr n z p off (s.veil s.cond o) = .next (t.veil s.cond o) := by
    by_cases hnzp : nzpBits n z p = 0b000#3
    · exact ⟨s, fun o => by simp [execBr, hnzp]⟩
    by_cases hunset : s.cond = .none ∧ s.params.condNonePolicy = .fault
    · exact ⟨s.setStatus (.faulted (.condUnset (encode (.br n z p off)) s.instrAddr)), fun o => by
        simp [execBr, hnzp, hunset, raiseFault]⟩
    by_cases htaken : branchTaken (nzpBits n z p) s.cond = true
    · exact ⟨s.setPc (s.pcRel9 off), fun o => by simp [execBr, hnzp, hunset, htaken, State.pcRel9]⟩
    · exact ⟨s, fun o => by simp [execBr, hnzp, hunset, htaken]⟩
  obtain ⟨t, ht⟩ := hblind
  refine .keeps t fun c o hc => ?_
  rcases hc with hno | rfl
  · exact absurd rfl (hno n z p off)
  · exact ht o

end Routines

/-- Every instruction is blind to the output, and, if it is no BR, to COND. -/
theorem exec_blind (i : Instr) (s : State) : Blind i (exec i) s := by
  cases i with
  | addReg d a g b => exact .result s d (s.reg a + s.reg b) fun _ _ => rfl
  | addImm d a imm => exact .result s d (s.reg a + imm5Value imm) fun _ _ => rfl
  | andReg d a g b => exact .result s d (s.reg a &&& s.reg b) fun _ _ => rfl
  | andImm d a imm => exact .result s d (s.reg a &&& imm5Value imm) fun _ _ => rfl
  | not d a g => exact .result s d (~~~ s.reg a) fun _ _ => rfl
  | lea d off => exact .result s d (s.pcRel9 off) fun _ _ => rfl
  | ld d off =>
    exact .result (s.memRead (s.pcRel9 off)).2 d (s.memRead (s.pcRel9 off)).1 fun c o => by
      simp [exec, execLd, State.loadResult, State.pcRel9]
  | ldi d off =>
    exact .result ((s.pointer off).2.memRead (s.pointer off).1).2 d ((s.pointer off).2.memRead (s.pointer off).1).1
      fun c o => by simp [exec, execLdi, State.loadResult, State.pointer, State.pcRel9]
  | ldr d b off =>
    exact .result (s.memRead (s.baseOffset b off)).2 d (s.memRead (s.baseOffset b off)).1 fun c o => by
      simp [exec, execLdr, State.loadResult, State.baseOffset]
  | st r off => exact .keeps (s.memWrite (s.pcRel9 off) (s.reg r)) fun _ _ _ => rfl
  | sti r off =>
    exact .keeps ((s.pointer off).2.memWrite (s.pointer off).1 (s.reg r)) fun c o _ => by
      simp [exec, execSti, State.pointer, State.pcRel9, State.memWrite]
  | str r b off => exact .keeps (s.memWrite (s.baseOffset b off) (s.reg r)) fun _ _ _ => rfl
  | br n z p off => exact execBr_blind n z p off
  | jmp g b k => exact .keeps (s.setPc (s.reg b)) fun _ _ _ => rfl
  | jsr off => exact .keeps ((s.setReg 7#3 s.pc).setPc (s.pcRel11 off)) fun _ _ _ => rfl
  | jsrr g b k =>
    cases hp : s.params.jsrrLinkOrder with
    | linkFirst =>
      exact .keeps ((s.setReg 7#3 s.pc).setPc ((s.setReg 7#3 s.pc).reg b)) fun c o _ => by
        simp [exec, execJsrr, hp]
    | targetFirst =>
      exact .keeps ((s.setReg 7#3 s.pc).setPc (s.reg b)) fun c o _ => by simp [exec, execJsrr, hp]
  | trap g v => exact execTrap_blind g v
  | trapGetc g => exact routineGetc_blind
  | trapOut g => exact routineOut_blind rfl
  | trapPuts g => exact routineString_blind _ _ rfl
  | trapIn g => exact routineIn_blind rfl
  | trapPutsp g => exact routineString_blind _ _ rfl
  | trapHalt g => exact routineHalt_blind rfl
  | trapUnknown g v => exact routineUnknown_blind v
  | reserved8 g => exact reservedFault_blind _
  | reservedD g => exact reservedFault_blind _

/-- No instruction faults the model or is refused by it (20_memory.md R36, R54): lift the veil off `exec_blind`. -/
theorem exec_eq_next (i : Instr) (s : State) : ∃ t, exec i s = .next t := by
  obtain ⟨bs, t, _, hrun⟩ := exec_blind i s
  obtain ⟨c', hrun⟩ := hrun s.cond (.inr rfl)
  exact ⟨_, hrun s.out⟩

/-- A run and the same run from another COND and another output. -/
theorem exec_veil {i : Instr} {s t : State} (h : exec i s = .next t) :
    ∃ bs, t.out = s.out ++ bs ∧ (i.writesOut = false → bs = []) ∧
      (∀ o, exec i (s.veil s.cond o) = .next (t.veil t.cond (o ++ bs))) ∧
      ∀ c, CondFree i s c → ∃ c', ∀ o, exec i (s.veil c o) = .next (t.veil c' (o ++ bs)) := by
  obtain ⟨bs, u, hbs, hrun⟩ := exec_blind i s
  obtain ⟨c₀, hself⟩ := hrun s.cond (.inr rfl)
  have ht : t = u.veil c₀ (s.out ++ bs) := Host.Outcome.next.inj (h.symm.trans (hself s.out))
  subst ht
  exact ⟨bs, rfl, hbs, hself, hrun⟩

end Sys2Proof.Machine
end

section
/-! The statements about every instruction that the veil settles. -/

namespace Sys2Proof

open Machine

/-- Settles O9: a run under another COND is the same run. -/
theorem onlyBranchReadsCond : Obligations.OnlyBranchReadsCond := by
  intro i s t c hbr h
  obtain ⟨bs, hout, _, _, hrun⟩ := exec_veil h
  obtain ⟨c', hrun⟩ := hrun c (.inl hbr)
  refine ⟨c', ?_⟩
  rw [State.setCond_eq_veil, State.setCond_eq_veil, hout]
  exact hrun s.out

/-- Settles O54: a run after another output appends the same bytes. -/
theorem outputOnlyGrowsAndIsNeverRead : Obligations.OutputOnlyGrowsAndIsNeverRead := by
  refine ⟨fun i s t h => ?_, rfl⟩
  obtain ⟨bs, hout, hbs, hrun, _⟩ := exec_veil h
  exact ⟨bs, hout, hbs, hrun⟩

/-- Settles O48: while RUNNING the fetched instruction answers, and otherwise no step takes place. -/
theorem coreStepsExactlyWhileRunning : Obligations.CoreStepsExactlyWhileRunning := by
  intro s
  refine ⟨fun hs => ?_, fun hs => ?_, fun f hs => ?_⟩
  · rw [step_of_running hs]
    exact exec_eq_next _ _
  · simp [step, State.stopReason, hs]
  · simp [step, State.stopReason, hs]

end Sys2Proof
end

section
/-! setcc, the draw of a poll's answer and the fetch's PC: O7, O13 and O51. -/

namespace Sys2Proof

open Machine

/-- Settles O7. -/
theorem setccClassifiesTheValue : Obligations.SetccClassifiesTheValue := by
  intro s v
  refine ⟨condIs_condOf v, fun _ => rfl, fun d => ?_, fun _ => rfl, fun _ => rfl, rfl, ⟨rfl, rfl, rfl⟩, rfl, rfl, rfl⟩
  rw [State.reg_setReg_self]
  rfl

/-- A poll takes the coming draw off the list. -/
@[simp] theorem Machine.State.poll_draws (s : State) : s.poll.draws = s.draws.tail := by
  unfold State.poll
  split
  · by_cases hp : s.params.pollConsumes <;> simp [hp]
  · simp

/-- A poll counts a free answer when no draw is listed. -/
theorem Machine.State.poll_freeDraws (s : State) :
    s.poll.freeDraws = if s.draws = [] then s.freeDraws + 1 else s.freeDraws := by
  unfold State.poll
  split
  · by_cases hp : s.params.pollConsumes <;> simp [hp, State.takeDraw_freeDraws]
  · simp [State.takeDraw_freeDraws]

/-- Settles O13. -/
theorem pollAnswerIsDrawn : Obligations.PollAnswerIsDrawn := by
  refine ⟨fun s b => ?_, fun s d ds hs => ?_, fun s hs => ?_⟩
  · rw [State.pollAnswer_eq_some, exists_and_right, and_comm]
  · simp [State.nextDraw, State.poll_freeDraws, hs]
  · simp [State.nextDraw, State.poll_freeDraws, hs]

/-- Settles O51. -/
theorem fetchIncrementsPcModulo65536 : Obligations.FetchIncrementsPcModulo65536 := by
  intro s
  refine ⟨?_, State.fetch_of_ne⟩
  rw [State.fetch, State.setPc_pc, BitVec.toNat_add]
  rfl

end Sys2Proof
end

section
/-! O52: PC after a whole step. A jump's target, a hold, and for the rest `Effect.pc`; a fetch at the status cell never
gives a GETC or IN, so that the input before the fetch is the one a GETC or IN sees. -/

namespace Sys2Proof

theorem decodeTrap_wellFormed (g : BitVec 4) (v : BitVec 8) : (decodeTrap g v).wellFormed = true := by
  by_cases hv : knownVector v = true
  · simp only [knownVector, Bool.or_eq_true, beq_iff_eq] at hv
    rcases hv with ((((rfl | rfl) | rfl) | rfl) | rfl) | rfl <;> rfl
  · have hunknown : decodeTrap g v = .trapUnknown g v := by
      simp only [knownVector, Bool.or_eq_true, beq_iff_eq, not_or] at hv
      obtain ⟨⟨⟨⟨⟨h0, h1⟩, h2⟩, h3⟩, h4⟩, h5⟩ := hv
      simp only [decodeTrap, h0, h1, h2, h3, h4, h5, if_false]
    simpa only [hunknown, Instr.wellFormed, Bool.not_eq_true', Bool.not_eq_true] using hv

/-- The decoder never answers the whole TRAP row, nor "unknown vector" of a known vector (30_encoding.md R63). -/
theorem decode_wellFormed (w : Word) : (decode w).wellFormed = true := by
  unfold decode
  split
  case h_2 | h_5 | h_6 => split <;> rfl
  case h_16 => exact decodeTrap_wellFormed _ _
  all_goals rfl

/-- Opcodes 0x0 and 0x8 are BR and a reserved opcode. -/
theorem readsInput_decode_of_opcode {w : Word} (h : (opcodeOf w).toNat = 0 ∨ (opcodeOf w).toNat = 8) :
    (decode w).readsInput = false := by
  unfold decode
  rcases h with h | h <;> rw [h] <;> rfl

namespace Machine

/-- A MemRead of the status cell gives 0x8000 or 0x0000, or, if the data cell is there too, the polled byte. -/
theorem State.memRead_kbsr_value (s : State) :
    (s.memRead s.params.kbsrAddr).1 = 0x8000#16 ∨ (s.memRead s.params.kbsrAddr).1 = 0x0000#16 ∨
      ∃ b, (s.memRead s.params.kbsrAddr).1 = zext8 b := by
  rw [State.memRead_kbsr]
  cases h : s.pollAnswer with
  | none => simp [State.rawRead_poll_notReady h]
  | some b =>
    by_cases hk : s.params.kbsrAddr = s.params.kbdrAddr
    · exact .inr (.inr ⟨b, by simp [State.rawRead_poll_ready h, hk]⟩)
    · exact .inl (by simp [State.rawRead_poll_ready h, hk])

/-- A GETC or IN is never fetched from the status cell. -/
theorem State.pc_ne_kbsr_of_readsInput {s : State} (h : (decode s.fetch.1).readsInput = true) :
    s.pc ≠ s.params.kbsrAddr := by
  intro hpc
  have hopcode : (opcodeOf s.fetch.1).toNat = 0 ∨ (opcodeOf s.fetch.1).toNat = 8 := by
    have hfetch : s.fetch.1 = (s.memRead s.params.kbsrAddr).1 := by rw [State.fetch, hpc]
    rw [hfetch]
    rcases s.memRead_kbsr_value with hv | hv | ⟨b, hv⟩ <;> rw [hv]
    · exact .inr rfl
    · exact .inl rfl
    · left
      rw [opcodeOf, toNat_bitField, zext8_toNat]
      omega
  simp [readsInput_decode_of_opcode hopcode] at h

/-- The fetch of a GETC or IN leaves the host's stream alone. -/
theorem State.fetch_input_of_readsInput {s : State} (h : (decode s.fetch.1).readsInput = true) :
    s.fetch.2.input = s.input := by
  rw [State.fetch_of_ne (State.pc_ne_kbsr_of_readsInput h), State.setPc_input]

/-- R81's branch test, in words. -/
theorem branchTaken_iff (n z p : Bool) (c : Cond) : branchTaken (nzpBits n z p) c = true ↔ CondMatches n z p c := by
  unfold CondMatches
  cases c <;> revert n z p <;> decide

/-- PC after a BR, whether or not it faults. -/
theorem execBr_pc {n z p : Bool} {off : BitVec 9} {s t : State} (h : execBr n z p off s = .next t) :
    t.pc = if branchTaken (nzpBits n z p) s.cond then s.pcRel9 off else s.pc := by
  unfold execBr raiseFault at h
  split at h
  · cases h
    simp [branchTaken, *]
  split at h
  · cases h
    simp [branchTaken, Cond.code, *]
  split at h <;> cases h <;> simp [*]

/-- PC after a run that reads input: a hold puts it back. -/
theorem Effect.pc_of_readsInput {i : Instr} {s t : State} (h : Effect s i t) (hi : i.readsInput = true) :
    t.pc = if s.input = [] then s.instrAddr else s.pc := by
  cases h with
  | holds _ hs => simp [hs]
  | takes echo _ hs _ => simp [hs]
  | result v hd hu => simp [Instr.readsInput_of_setsFlagsFrom hd] at hi
  | store _ _ hp | jump _ hp | link _ hp | stay hp | faults _ hp | writes _ hp | halts hp => simp [hp.2] at hi

end Machine

open Machine

/-- Settles O52. -/
theorem pcAfterEachInstruction : Obligations.PcAfterEachInstruction := by
  intro s t h
  obtain ⟨_, hexec⟩ := running_of_step_eq_next h
  have hwf := decode_wellFormed s.fetch.1
  have hinput := s.fetch_input_of_readsInput
  obtain ⟨hregs, hpc, hcond, -, -, hparams⟩ := s.fetch_frame
  have hreg (r : RegId) : s.fetch.2.reg r = s.reg r := by simp [State.reg, hregs]
  generalize decode s.fetch.1 = i at hexec hwf hinput ⊢
  have heffect := exec_effect hexec
  have hstays (hj : i.jumps = false) (hr : i.readsInput = false) : t.pc = s.pc + 1#16 :=
    (heffect.pc hj hr).trans hpc
  have hreads (hr : i.readsInput = true) : t.pc = if s.input = [] then s.pc else s.pc + 1#16 := by
    rw [heffect.pc_of_readsInput hr, hinput hr, State.instrAddr, hpc, BitVec.add_sub_cancel]
  cases i with
  | br n z p off =>
    have hbr := execBr_pc (show execBr n z p off s.fetch.2 = .next t from hexec)
    rw [hcond, State.pcRel9, hpc] at hbr
    exact ⟨fun hm => by rw [hbr, if_pos ((branchTaken_iff ..).mpr hm)],
      fun hm => by rw [hbr, if_neg (mt (branchTaken_iff ..).mp hm)]⟩
  | jmp g b k => cases hexec; exact hreg b
  | jsr off => cases hexec; simp [State.pcRel11, hpc]
  | jsrr g b k => rw [execJsrr_eq_next (g := g) (k := k) hexec, State.setPc_pc, hpc, hreg, hparams]
  | trapGetc g => exact hreads rfl
  | trapIn g => exact hreads rfl
  | trap g v => simp [Instr.wellFormed] at hwf
  | _ => exact hstays rfl rfl

end Sys2Proof
end

section
/-! O57: the canonical form of memory after a whole step. Every shape of `Effect` keeps it: memory changes by MemReads,
which may poll, and by one store (20_memory.md R34, R36). -/

namespace Sys2Proof

namespace Machine

@[simp] theorem State.inputResult_mem (s : State) (b : Byte) : (s.inputResult b).mem = s.mem := by
  obtain ⟨-, -, -, -, hmem, -⟩ := s.inputResult_frame b
  exact hmem

/-- MemReads keep the canonical form of memory. -/
theorem Reads.wf {s u : State} (h : Reads s u) (hs : Memory.wf s.mem) : Memory.wf u.mem := by
  induction h with
  | refl => exact hs
  | memRead _ a ih => exact State.wf_memRead ih a

/-- A run keeps the canonical form of memory. -/
theorem Effect.wf {i : Instr} {s t : State} (h : Effect s i t) (hs : Memory.wf s.mem) : Memory.wf t.mem := by
  cases h with
  | result v hd hu => exact hu.wf hs
  | store a v hi hu => exact State.wf_rawWrite (hu.wf hs) a v
  | takes echo hi hin ho => simpa using hs
  | jump | link | stay | faults | writes | halts | holds => exact hs

end Machine

open Machine

/-- Settles O57: the fetch and the run keep the canonical form, and no step writes the two addresses (O58). -/
theorem stepKeepsMemoryCanonical : Obligations.StepKeepsMemoryCanonical := by
  intro s t ⟨hwf, haddr⟩ h
  obtain ⟨_, hexec⟩ := running_of_step_eq_next h
  refine ⟨(exec_effect hexec).wf (State.wf_fetch hwf), ?_⟩
  rwa [stepKeepsParameters s t h]

end Sys2Proof
end

section
/-! The access primitives of 20_memory.md: RawWrite (R39), the poll (R40), MemRead (R41, R42), MemWrite (R43) and what
the fetch sees of a store (R52). -/

namespace Sys2Proof

namespace Machine

variable {s : State}

/-! ### The poll's two cells and the stream -/

/-- A poll takes the byte of a ready answer from the stream exactly under `POLL_CONSUMES`. -/
theorem State.poll_input_ready {b : Byte} (h : s.pollAnswer = some b) :
    s.poll.input = if s.params.pollConsumes then s.input.tail else s.input := by
  unfold State.poll
  simp only [h]
  split <;> simp

/-- A not-ready poll leaves the stream. -/
theorem State.poll_input_notReady (h : s.pollAnswer = none) : s.poll.input = s.input := by
  unfold State.poll
  simp [h]

/-- With the device cells apart, a poll leaves its answer in the status cell, whatever the cell held. -/
theorem State.rawRead_poll_kbsr (hne : s.params.kbsrAddr ≠ s.params.kbdrAddr) :
    s.poll.rawRead s.params.kbsrAddr = if s.pollAnswer.isSome then 0x8000#16 else 0x0000#16 := by
  cases h : s.pollAnswer with
  | none => simp [State.rawRead_poll_notReady h]
  | some b => simp [State.rawRead_poll_ready h, hne]

/-- A ready poll latches the byte in the data cell. -/
theorem State.rawRead_poll_kbdr_ready {b : Byte} (h : s.pollAnswer = some b) :
    s.poll.rawRead s.params.kbdrAddr = zext8 b := by
  simp [State.rawRead_poll_ready h]

/-- A not-ready poll writes the status cell only. -/
theorem State.rawRead_poll_notReady_of_ne (h : s.pollAnswer = none) {a : Word} (ha : a ≠ s.params.kbsrAddr) :
    s.poll.rawRead a = s.rawRead a := by
  rw [State.rawRead_poll_notReady h, if_neg ha]

/-! ### Loads and stores -/

/-- The host's answer does not depend on memory. -/
@[simp] theorem State.pollAnswer_memWrite (a v : Word) : (s.memWrite a v).pollAnswer = s.pollAnswer := rfl

@[simp] theorem State.memWrite_params (a v : Word) : (s.memWrite a v).params = s.params := rfl

/-- With the device cells apart, a MemRead of the status cell gives the poll's answer. -/
theorem State.memRead_kbsr_answer (hne : s.params.kbsrAddr ≠ s.params.kbdrAddr) :
    (s.memRead s.params.kbsrAddr).1 = if s.pollAnswer.isSome then 0x8000#16 else 0x0000#16 := by
  rw [State.memRead_kbsr, State.rawRead_poll_kbsr hne]

/-- With the device cells apart, a MemRead of the data cell has no side effect. -/
theorem State.memRead_kbdr (hne : s.params.kbsrAddr ≠ s.params.kbdrAddr) :
    s.memRead s.params.kbdrAddr = (s.rawRead s.params.kbdrAddr, s) :=
  State.memRead_of_ne hne.symm

/-- Off the status cell, a MemRead right after a MemWrite gives the value stored. -/
theorem State.memRead_memWrite_self {a : Word} (ha : a ≠ s.params.kbsrAddr) (v : Word) :
    (s.memWrite a v).memRead a = (v, s.memWrite a v) := by
  rw [State.memRead_of_ne (s := s.memWrite a v) ha, State.memWrite, State.rawRead_rawWrite_self]

/-- A store to the address in PC is what the next fetch gives. -/
theorem State.fetch_memWrite_pc (hpc : s.pc ≠ s.params.kbsrAddr) (v : Word) : (s.memWrite s.pc v).fetch.1 = v :=
  congrArg Prod.fst (State.memRead_memWrite_self hpc v)

/-- A fetch at the status cell gives what its poll leaves there. -/
theorem State.fetch_of_kbsr (hpc : s.pc = s.params.kbsrAddr) :
    s.fetch = (s.poll.rawRead s.params.kbsrAddr, s.poll.setPc (s.pc + 1#16)) := by
  rw [State.fetch, hpc, State.memRead_kbsr]

/-- Off the status cell, the pointer of LDI and STI is the cell's value and its read has no side effect. -/
theorem State.pointer_of_ne {off : BitVec 9} (h : s.pc + sext off ≠ s.params.kbsrAddr) :
    s.pointer off = (s.rawRead (s.pc + sext off), s) :=
  State.memRead_of_ne h

/-- A raw write stores one cell and changes nothing else. -/
theorem cellStored_rawWrite (s : State) (a v : Word) : CellStored s (s.rawWrite a v) a v := by
  refine ⟨State.rawRead_rawWrite_self s a v, fun b hb => ?_, fun _ => rfl, rfl, rfl, ⟨rfl, rfl, rfl⟩, rfl, rfl, rfl⟩
  rw [State.rawRead_rawWrite, if_neg hb]

end Machine

open Machine

/-- Settles O11. -/
theorem rawWriteSetsOneCell : Obligations.RawWriteSetsOneCell :=
  cellStored_rawWrite

/-- Settles O12: with the two addresses apart, the cells and the stream by the answer; the rest is the poll's frame. -/
theorem pollWritesDeviceCells : Obligations.PollWritesDeviceCells := by
  intro s hne
  refine ⟨s.poll_reg, s.poll_pc, s.poll_cond, ⟨s.poll_status, s.poll_out, s.poll_params⟩, fun b hb => ?_, fun hn => ?_⟩
  · obtain ⟨rest, hinput, _⟩ := State.pollAnswer_eq_some.mp hb
    refine ⟨by simp [State.rawRead_poll_kbsr hne, hb], by simp [State.rawRead_poll_kbdr_ready hb],
      fun a hsr hdr => by simp [State.rawRead_poll_ready hb, hsr, hdr], rest, hinput, ?_⟩
    rw [State.poll_input_ready hb, hinput, List.tail_cons]
  · exact ⟨by simp [State.rawRead_poll_kbsr hne, hn], fun a ha => State.rawRead_poll_notReady_of_ne hn ha,
      State.poll_input_notReady hn⟩

/-- Settles O14. -/
theorem memReadPollsOnlyTheStatusCell : Obligations.MemReadPollsOnlyTheStatusCell := by
  refine fun s a => ⟨State.memRead_of_ne, ?_⟩
  rintro rfl hne
  refine ⟨?_, ?_, State.memRead_kbsr_answer hne⟩ <;> rw [State.memRead_kbsr]

/-- Settles O15: the data cell is read off the status cell, so each value is what the cell holds then. -/
theorem dataCellReadHasNoSideEffect : Obligations.DataCellReadHasNoSideEffect := by
  intro s hne
  have hpoll : s.poll.memRead s.params.kbdrAddr = (s.poll.rawRead s.params.kbdrAddr, s.poll) :=
    State.memRead_of_ne (by simpa using hne.symm)
  refine ⟨State.memRead_kbdr hne, fun b hb => ?_, fun hn => ?_, State.memRead_memWrite_self hne.symm, ?_⟩
  · rw [hpoll, State.rawRead_poll_kbdr_ready hb, zext8_toNat]
  · rw [hpoll, State.rawRead_poll_notReady_of_ne hn hne.symm]
  · rw [State.memRead_kbdr (by decide)]
    rfl

/-- Settles O16: a store to the status cell does not change the poll's answer, which is all a MemRead there gives. -/
theorem memWriteHasNoSideEffect : Obligations.MemWriteHasNoSideEffect := by
  refine fun s a v => ⟨cellStored_rawWrite s a v, fun hne => ?_⟩
  have hstored := State.memRead_kbsr_answer (s := s.memWrite s.params.kbsrAddr v) hne
  rw [State.memWrite_params, State.pollAnswer_memWrite] at hstored
  rw [hstored, State.memRead_kbsr_answer hne]

/-- Settles O17: each of the three stores is a MemWrite to the address in PC. -/
theorem storeIsSeenByTheNextFetch : Obligations.StoreIsSeenByTheNextFetch := by
  refine ⟨fun _ => rfl, fun s a v ha => State.fetch_memWrite_pc (s := s.setPc a) ha v,
    fun s t r b off9 off6 hpc => ⟨fun h ha => ?st, fun h ha => ?str, fun h hp ha => ?sti⟩, fun s hpc hne => ?poll⟩
  case st =>
    cases h
    rw [State.pcRel9, ha, State.fetch_memWrite_pc hpc]
  case str =>
    cases h
    rw [State.baseOffset, ha, State.fetch_memWrite_pc hpc]
  case sti =>
    cases h
    rw [State.pointer_of_ne hp, ha, State.fetch_memWrite_pc hpc]
  case poll =>
    rw [State.fetch_of_kbsr hpc]
    have hanswer := State.rawRead_poll_kbsr hne
    split at hanswer
    · exact ⟨.inl hanswer, rfl⟩
    · exact ⟨.inr hanswer, rfl⟩

end Sys2Proof
end

section
/-! O2, O3: the decoder and the encoder undo each other (30_encoding.md R58, R63). Both directions are read off the
number of a word, `wordNat`: decoding takes it apart by division, encoding puts it together. -/

namespace Sys2Proof

/-! ### Fields and opcodes as numbers -/

/-- The opcode is all that lies above bit 11. -/
theorem toNat_opcodeOf (w : Word) : (opcodeOf w).toNat = w.toNat / 4096 := by
  have := w.isLt
  rw [opcodeOf, toNat_bitField]
  omega

/-- R56 writes the opcode as `word >> 12`. -/
theorem toNat_shiftRight_12 (w : Word) : (w >>> 12).toNat = (opcodeOf w).toNat := by
  rw [toNat_opcodeOf, BitVec.toNat_ushiftRight, Nat.shiftRight_eq_div_pow]

/-- One bit of a word as a number. -/
theorem toNat_getElem (w : Word) (k : Nat) (h : k < 16) : w[k].toNat = w.toNat / 2 ^ k % 2 := by
  rw [getElem_eq_decide]
  rcases Nat.mod_two_eq_zero_or_one (w.toNat / 2 ^ k) with hbit | hbit <;> rw [hbit] <;> rfl

/-- A field of an encoded instruction, from the instruction's number. -/
theorem bitField_encode {i : Instr} {lo len : Nat} {x : BitVec len} (h : wordNat i / 2 ^ lo % 2 ^ len = x.toNat) :
    bitField (encode i) lo len = x :=
  BitVec.eq_of_toNat_eq (by rw [toNat_bitField, encode_toNat, h])

/-- One bit of an encoded instruction, from the instruction's number. -/
theorem getElem_encode {i : Instr} {k : Nat} {hk : k < 16} {b : Bool} (h : wordNat i / 2 ^ k % 2 = b.toNat) :
    (encode i)[k] = b := by
  rw [getElem_eq_decide, encode_toNat, h]
  cases b <;> rfl

/-- The word of an instruction carries the opcode of its row. -/
theorem opcodeOf_encode (i : Instr) : opcodeOf (encode i) = i.opcode := by
  cases i with
  | addReg d a g b => exact Laws.EncodeOpcode.addReg d a g b
  | addImm d a imm => exact Laws.EncodeOpcode.addImm d a imm
  | andReg d a g b => exact Laws.EncodeOpcode.andReg d a g b
  | andImm d a imm => exact Laws.EncodeOpcode.andImm d a imm
  | not d a g => exact Laws.EncodeOpcode.not d a g
  | ld d off => exact Laws.EncodeOpcode.ld d off
  | ldi d off => exact Laws.EncodeOpcode.ldi d off
  | ldr d b off => exact Laws.EncodeOpcode.ldr d b off
  | lea d off => exact Laws.EncodeOpcode.lea d off
  | st r off => exact Laws.EncodeOpcode.st r off
  | sti r off => exact Laws.EncodeOpcode.sti r off
  | str r b off => exact Laws.EncodeOpcode.str r b off
  | br n z p off => exact Laws.EncodeOpcode.br n z p off
  | jmp g b k => exact Laws.EncodeOpcode.jmp g b k
  | jsr off => exact Laws.EncodeOpcode.jsr off
  | jsrr g b k => exact Laws.EncodeOpcode.jsrr g b k
  | trap g v => exact Laws.EncodeOpcode.trap g v
  | trapGetc g => exact Laws.EncodeOpcode.trapGetc g
  | trapOut g => exact Laws.EncodeOpcode.trapOut g
  | trapPuts g => exact Laws.EncodeOpcode.trapPuts g
  | trapIn g => exact Laws.EncodeOpcode.trapIn g
  | trapPutsp g => exact Laws.EncodeOpcode.trapPutsp g
  | trapHalt g => exact Laws.EncodeOpcode.trapHalt g
  | trapUnknown g v => exact Laws.EncodeOpcode.trapUnknown g v
  | reserved8 g => exact Laws.EncodeOpcode.reserved8 g
  | reservedD g => exact Laws.EncodeOpcode.reservedD g

/-! ### Decode, then encode -/

/-- The row that refines TRAP keeps the whole row's number. -/
theorem wordNat_decodeTrap (g : BitVec 4) (v : BitVec 8) : wordNat (decodeTrap g v) = wordNat (.trap g v) := by
  unfold decodeTrap
  repeat' split
  all_goals simp only [wordNat, BitVec.toNat_ofNat, *] <;> omega

/-- Decoding keeps a word's number. -/
theorem wordNat_decode (w : Word) : wordNat (decode w) = w.toNat := by
  have hop := toNat_opcodeOf w
  unfold decode
  split
  -- BR
  case h_1 => simp only [wordNat, toNat_bitField, toNat_getElem]; omega
  -- ADD, JSR and AND, by their mode bit
  case h_2 | h_5 | h_6 =>
    simp only [getElem_eq_decide, decide_eq_true_eq]
    split <;> simp only [wordNat, toNat_bitField] <;> omega
  -- TRAP
  case h_16 =>
    have htrap : (opcodeOf w).toNat = 15 := by
      have := (opcodeOf w).isLt
      simp only [imp_false] at *
      omega
    rw [wordNat_decodeTrap]
    simp only [wordNat, toNat_bitField]
    omega
  all_goals simp only [wordNat, toNat_bitField]; omega

/-- Encoding a decoded word gives it back: no bit is dropped. -/
theorem encode_decode (w : Word) : encode (decode w) = w :=
  BitVec.eq_of_toNat_eq ((encode_toNat _).trans (wordNat_decode w))

/-! ### Encode, then decode -/

/-- TRAP with an unknown vector has no row of its own but `trapUnknown`. -/
theorem decodeTrap_of_unknown {v : BitVec 8} (g : BitVec 4) (h : knownVector v = false) :
    decodeTrap g v = .trapUnknown g v := by
  simp only [knownVector, Bool.or_eq_false_iff, beq_eq_false_iff_ne] at h
  simp [decodeTrap, h]

/-- A well-formed instruction is in the decoder's form already. -/
theorem Instr.refined_of_wellFormed {i : Instr} (h : i.wellFormed = true) : i.refined = i := by
  cases i with
  | trap g v => simp [Instr.wellFormed] at h
  | trapUnknown g v => exact decodeTrap_of_unknown g (by simpa [Instr.wellFormed] using h)
  | _ => rfl

/-- The whole TRAP row's word decodes to the row that refines it. -/
theorem decode_encode_trap (g : BitVec 4) (v : BitVec 8) : decode (encode (.trap g v)) = decodeTrap g v := by
  have hign : bitField (encode (.trap g v)) 8 4 = g := bitField_encode (by simp only [wordNat]; omega)
  have hvector : bitField (encode (.trap g v)) 0 8 = v := bitField_encode (by simp only [wordNat]; omega)
  rw [decode, opcodeOf_encode, hign, hvector]
  rfl

/-- Decoding an encoded instruction gives it in the decoder's form. -/
theorem decode_encode (i : Instr) : decode (encode i) = i.refined := by
  cases i with
  | addReg | andReg | jsrr =>
    simp only [decode, opcodeOf_encode, Instr.opcode, BitVec.toNat_ofNat, Nat.reducePow, Nat.reduceMod]
    rw [getElem_encode (b := false) (by simp only [wordNat, Bool.toNat_false]; omega), if_neg Bool.false_ne_true]
    congr 1 <;> exact bitField_encode (by simp only [wordNat]; omega)
  | addImm | andImm | jsr =>
    simp only [decode, opcodeOf_encode, Instr.opcode, BitVec.toNat_ofNat, Nat.reducePow, Nat.reduceMod]
    rw [getElem_encode (b := true) (by simp only [wordNat, Bool.toNat_true]; omega), if_pos rfl]
    congr 1 <;> exact bitField_encode (by simp only [wordNat]; omega)
  | br n z p off =>
    have := n.toNat_lt
    have := z.toNat_lt
    have := p.toNat_lt
    simp only [decode, opcodeOf_encode, Instr.opcode, BitVec.toNat_ofNat, Nat.reducePow, Nat.reduceMod]
    congr 1
    case e_off9 => exact bitField_encode (by simp only [wordNat]; omega)
    all_goals exact getElem_encode (by simp only [wordNat]; omega)
  | trap g v => exact decode_encode_trap g v
  | trapUnknown g v => exact decode_encode_trap g v
  | trapGetc g => exact decode_encode_trap g 0x20#8
  | trapOut g => exact decode_encode_trap g 0x21#8
  | trapPuts g => exact decode_encode_trap g 0x22#8
  | trapIn g => exact decode_encode_trap g 0x23#8
  | trapPutsp g => exact decode_encode_trap g 0x24#8
  | trapHalt g => exact decode_encode_trap g 0x25#8
  | _ =>
    simp only [decode, opcodeOf_encode, Instr.opcode, BitVec.toNat_ofNat, Nat.reducePow, Nat.reduceMod]
    congr 1 <;> exact bitField_encode (by simp only [wordNat]; omega)

/-- Settles O2: a well-formed instruction is its own refinement. -/
theorem decodeOfEncodeIsIdentity : Obligations.DecodeOfEncodeIsIdentity :=
  ⟨fun i h => (decode_encode i).trans (Instr.refined_of_wellFormed h), decode_encode⟩

/-- Settles O3. -/
theorem encodeOfDecodeIsIdentity : Obligations.EncodeOfDecodeIsIdentity :=
  fun w => ⟨decode_wellFormed w, encode_decode w⟩

end Sys2Proof
end

section
/-! O4, O5: the opcode map of 30_encoding.md R56 as the decoder follows it, and the bits that R58 marks `-`. Two words
that agree under a mask have the same fields wherever the mask is 1. -/

namespace Sys2Proof

open Machine

/-- Settles O4: the decoder splits on the opcode as the map does. -/
theorem decodeFollowsOpcodeMap : Obligations.DecodeFollowsOpcodeMap := by
  intro w
  rw [toNat_shiftRight_12]
  unfold decode
  generalize (opcodeOf w).toNat = op
  split
  -- ADD, JSR and AND, by their mode bit
  case h_2 | h_5 | h_6 =>
    simp only [← BitVec.getLsbD_eq_getElem]
    split <;> simp
  -- TRAP
  case h_16 => exact ⟨bitField w 8 4, bitField w 0 8, by simp only [Instr.refined]⟩
  all_goals simp

/-! ### Words that agree under a mask -/

section Masked

variable {w w' k : Word}

/-- Where the mask is 1, the fields agree. -/
theorem bitField_congr_of_mask (h : w &&& k = w' &&& k) (lo len : Nat)
    (hk : bitField k lo len = BitVec.allOnes len) : bitField w lo len = bitField w' lo len := by
  have hfield := congrArg (bitField · lo len) h
  simp only [bitField, BitVec.extractLsb'_and] at hfield hk ⊢
  simpa only [hk, BitVec.and_allOnes] using hfield

/-- Where the mask is 1, the bits agree. -/
theorem getLsbD_congr_of_mask (h : w &&& k = w' &&& k) (j : Nat) (hk : k.getLsbD j = true) :
    w.getLsbD j = w'.getLsbD j := by
  have hbit := congrArg (·.getLsbD j) h
  simpa only [BitVec.getLsbD_and, hk, Bool.and_true] using hbit

/-- A word without ignored bits agrees with itself only. -/
theorem eq_of_mask_zero (h : w &&& ~~~ 0x0000#16 = w' &&& ~~~ 0x0000#16) : w = w' := by
  rwa [BitVec.not_zero, BitVec.and_allOnes, BitVec.and_allOnes] at h

/-- The opcode is never among the ignored bits. -/
theorem opcodeOf_not_ignoredMask (w : Word) : opcodeOf (~~~ ignoredMask w) = BitVec.allOnes 4 := by
  unfold ignoredMask
  repeat' split
  all_goals rfl

/-- The dispatch of 44_trap.md R85: the row that refines TRAP does what the whole row does. -/
theorem exec_decodeTrap (g : BitVec 4) (v : BitVec 8) (s : State) : exec (decodeTrap g v) s = execTrap g v s := by
  unfold decodeTrap execTrap
  repeat' split
  all_goals rfl

/-- Words that agree off the ignored bits are executed alike, reserved opcodes aside: the fields that the mask leaves
are the ones that the meaning reads. -/
theorem exec_decode_congr (h : w &&& ~~~ ignoredMask w = w' &&& ~~~ ignoredMask w)
    (h8 : (opcodeOf w).toNat ≠ 8) (hD : (opcodeOf w).toNat ≠ 13) (s : State) :
    exec (decode w) s = exec (decode w') s := by
  have hop' : opcodeOf w' = opcodeOf w := (bitField_congr_of_mask h 12 4 (opcodeOf_not_ignoredMask w)).symm
  unfold ignoredMask at h
  rw [toNat_shiftRight_12] at h
  split at h
  -- ADD and AND
  case h_1 hop | h_2 hop =>
    split at h
    · rw [eq_of_mask_zero h]
    · next h5 =>
      have h5' := getLsbD_congr_of_mask h 5 rfl ▸ h5
      simp only [decode, hop', hop, ← BitVec.getLsbD_eq_getElem, h5, h5']
      rw [bitField_congr_of_mask h 9 3 rfl, bitField_congr_of_mask h 6 3 rfl, bitField_congr_of_mask h 0 3 rfl]
      rfl
  -- JSR and JSRR
  case h_3 hop =>
    split at h
    · rw [eq_of_mask_zero h]
    · next h11 =>
      have h11' := getLsbD_congr_of_mask h 11 rfl ▸ h11
      simp only [decode, hop', hop, ← BitVec.getLsbD_eq_getElem, h11, h11']
      rw [bitField_congr_of_mask h 6 3 rfl]
      rfl
  -- the reserved opcodes
  case h_4 hop => exact absurd hop h8
  case h_7 hop => exact absurd hop hD
  -- NOT
  case h_5 hop =>
    simp only [decode, hop', hop]
    rw [bitField_congr_of_mask h 9 3 rfl, bitField_congr_of_mask h 6 3 rfl]
    rfl
  -- JMP
  case h_6 hop =>
    simp only [decode, hop', hop]
    rw [bitField_congr_of_mask h 6 3 rfl]
    rfl
  -- TRAP
  case h_8 hop =>
    simp only [decode, hop', hop, exec_decodeTrap]
    rw [bitField_congr_of_mask h 0 8 rfl]
    rfl
  -- the opcodes without ignored bits
  case h_9 => rw [eq_of_mask_zero h]

/-- A reserved opcode's fault records the word itself, its ignored bits among them. -/
theorem exec_decode_reserved (h : (opcodeOf w).toNat = 8 ∨ (opcodeOf w).toNat = 13) (s : State) :
    exec (decode w) s = reservedFault w s := by
  have hword : exec (decode w) s = reservedFault (encode (decode w)) s := by
    rcases h with h | h <;> rw [decode, h] <;> rfl
  rw [hword, encode_decode]

end Masked

/-- Settles O5: the ignored bits reach no meaning but the reserved opcodes' record. -/
theorem ignoredBitsHaveNoEffect : Obligations.IgnoredBitsHaveNoEffect := by
  intro w w' s h
  have hop : opcodeOf w = opcodeOf w' := bitField_congr_of_mask h 12 4 (opcodeOf_not_ignoredMask w)
  have hop_iff (n : Word) : w >>> 12 = n ↔ (opcodeOf w).toNat = n.toNat := by
    rw [← toNat_shiftRight_12, BitVec.toNat_inj]
  refine ⟨fun ⟨h8, hD⟩ => exec_decode_congr h (mt (hop_iff 8).mpr h8) (mt (hop_iff 13).mpr hD) s,
    fun hreserved => ?_⟩
  rw [hop_iff, hop_iff] at hreserved
  refine ⟨opcodeOf w, (toNat_shiftRight_12 w).symm, exec_decode_reserved hreserved s, ?_⟩
  rw [exec_decode_reserved (hop ▸ hreserved) s, reservedFault, ← hop]
  rfl

end Sys2Proof
end

section
/-! The instruction cycle of 30_encoding.md R61, a word placed where it fetches, the no-op branches (R65) and the held
GETC and IN (R62). -/

namespace Sys2Proof

open Machine

/-- Settles O1. -/
theorem sampleWordsDecodeAsWritten : Obligations.SampleWordsDecodeAsWritten := by
  unfold Obligations.SampleWordsDecodeAsWritten
  decide

/-- Settles O50. -/
theorem stepRunsTheDecodedInstruction : Obligations.StepRunsTheDecodedInstruction := by
  rintro s u w i hs hread rfl
  refine ⟨decode_wellFormed w, ?_, fun hpc => ?_⟩
  · rw [step_of_running hs, State.fetch, hread]
    rfl
  · rw [State.memRead_of_ne hpc] at hread
    cases hread
    exact ⟨rfl, rfl⟩

/-! ### A placed word -/

namespace Machine

/-- The host's word stands at PC, or one cell on when PC is at the status cell (log entry 19). -/
theorem State.withFetchWord_eq (s : State) {w : Nat} (hw : w < 65536) :
    ∃ a, a ≠ s.params.kbsrAddr ∧ (s.pc ≠ s.params.kbsrAddr → a = s.pc) ∧
      s.withFetchWord 16 w = ((s.setPc a).rawWrite a (BitVec.ofNat 16 w)).setStatus .running := by
  have hword : w % 2 ^ 16 = w := Nat.mod_eq_of_lt hw
  unfold State.withFetchWord
  rw [hword]
  by_cases hpc : s.pc = s.params.kbsrAddr
  · refine ⟨s.pc + 1#16, ?_, fun hne => absurd hpc hne, by rw [if_pos hpc]; rfl⟩
    rw [← hpc]
    bv_omega
  · exact ⟨s.pc, hpc, fun _ => rfl, by rw [if_neg hpc]; rfl⟩

/-- A word stored where a running core fetches next, off the status cell, is what the step decodes and runs. -/
theorem step_of_stored_at_pc {s : State} (hs : s.status = .running) (hpc : s.pc ≠ s.params.kbsrAddr) {v : Word}
    (hv : s.rawRead s.pc = v) : step s = exec (decode v) (s.setPc (s.pc + 1#16)) := by
  rw [step_of_running hs, State.fetch_of_ne hpc, hv]

end Machine

/-- Settles O60. -/
theorem placedWordIsFetchedNext : Obligations.PlacedWordIsFetchedNext := by
  intro s w hw
  obtain ⟨a, ha, hsame, hplaced⟩ := s.withFetchWord_eq hw
  refine ⟨_, (congrArg step hplaced).trans (step_of_stored_at_pc rfl ha (State.rawRead_rawWrite_self _ a _)), ?_,
    fun _ => rfl, rfl, rfl, rfl, ⟨rfl, rfl, rfl⟩, fun hpc => ?_⟩
  · rw [decodeTableWord, Nat.mod_eq_of_lt (show w < 2 ^ 16 from hw)]
  · rw [← hsame hpc]
    rfl

/-! ### No-op branches -/

namespace Machine

/-- A BR with offset 0 does not move PC. -/
theorem State.setPc_pcRel9_zero (s : State) : s.setPc (s.pcRel9 0#9) = s := by
  have htarget : s.pcRel9 0#9 = s.pc := BitVec.add_zero s.pc
  rw [htarget]
  rfl

/-- A BR without condition bits reads no COND. -/
theorem exec_br_no_bits (off : BitVec 9) (s : State) : exec (.br false false false off) s = .next s := rfl

end Machine

/-- Settles O31: with COND set or the policy no_branch, a BR stays or goes to its target, here PC itself. -/
theorem noOpBranchesDoNothing : Obligations.NoOpBranchesDoNothing := by
  refine ⟨fun off s c => exec_br_no_bits off _, fun s hs hpc hzero => ?_, fun n z p s hcond => ?_⟩
  · rw [step_of_stored_at_pc hs hpc hzero]
    exact exec_br_no_bits 0#9 _
  · obtain ⟨t, ht⟩ := exec_eq_next (.br n z p 0#9) s
    rw [ht]
    rcases execBr_cases ht with rfl | rfl | ⟨hnone, hfault, -⟩
    · rfl
    · rw [State.setPc_pcRel9_zero]
    · simp [hnone, hfault] at hcond

/-! ### The held step -/

namespace Machine

@[simp] theorem State.inputResult_input (s : State) (b : Byte) : (s.inputResult b).input = s.input := by
  obtain ⟨-, -, -, -, -, -, -, hinput⟩ := s.inputResult_frame b
  exact hinput

/-- GETC and IN hold or take the next byte. -/
theorem Effect.hold_or_take {i : Instr} {s t : State} (h : Effect s i t) (hi : i.readsInput = true) :
    (s.input = [] ∧ t = s.setPc s.instrAddr) ∨ (s.input ≠ [] ∧ t.pc = s.pc ∧ t.input = s.input.tail) := by
  cases h with
  | holds _ hs => exact .inl ⟨hs, rfl⟩
  | takes echo _ hs _ => exact .inr ⟨by simp [hs], by simp, by simp⟩
  | result v hd hu => simp [Instr.readsInput_of_setsFlagsFrom hd] at hi
  | store _ _ hp | jump _ hp | link _ hp | stay hp | faults _ hp | writes _ hp | halts hp => simp [hp.2] at hi

/-- A step at a GETC or IN, whose fetch is off the status cell, answers the state itself or takes the next byte. -/
theorem step_of_readsInput {s : State} (hs : s.status = .running) (hi : (decode s.fetch.1).readsInput = true) :
    ∃ t, step s = .next t ∧
      ((s.input = [] ∧ t = s) ∨ (s.input ≠ [] ∧ t.pc = s.pc + 1#16 ∧ t.input = s.input.tail)) := by
  have hfetch := State.fetch_of_ne (State.pc_ne_kbsr_of_readsInput hi)
  obtain ⟨t, ht⟩ := exec_eq_next (decode s.fetch.1) s.fetch.2
  refine ⟨t, (step_of_running hs).trans ht, ?_⟩
  have heffect := (exec_effect ht).hold_or_take hi
  rw [hfetch] at heffect
  refine heffect.imp_left fun ⟨hin, hheld⟩ => ⟨hin, hheld.trans ?_⟩
  rw [State.instrAddr, State.setPc_pc, BitVec.add_sub_cancel]
  rfl

/-- Off the status cell, the host's supplies do not change what the next fetch gives. -/
theorem State.fetch_hostSupplies {s : State} (hpc : s.pc ≠ s.params.kbsrAddr) (bytes : List Byte)
    (answers : List Bool) : (s.hostSupplies bytes answers).fetch.1 = s.fetch.1 := by
  rw [State.fetch_of_ne hpc, State.fetch_of_ne (s := s.hostSupplies bytes answers) hpc]
  rfl

end Machine

/-- Settles O47: the fetch is off the status cell, so the host's supply does not change what it gives. -/
theorem heldStepChangesNothing : Obligations.HeldStepChangesNothing := by
  intro s hs ⟨g, hg⟩
  have hi : (decode s.fetch.1).readsInput = true := by rcases hg with hg | hg <;> rw [hg] <;> rfl
  refine ⟨fun hempty => ?_, fun b bytes answers => ?_⟩
  · obtain ⟨t, ht, ⟨-, rfl⟩ | ⟨hne, -⟩⟩ := step_of_readsInput hs hi
    · exact ht
    · exact absurd hempty hne
  · rw [← State.fetch_hostSupplies (State.pc_ne_kbsr_of_readsInput hi) (b :: bytes) answers] at hi
    obtain ⟨t, ht, ⟨hempty, -⟩ | ⟨-, hpc, hinput⟩⟩ :=
      step_of_readsInput (s := s.hostSupplies (b :: bytes) answers) hs hi
    · simp at hempty
    · exact ⟨t, ht, hpc, hinput⟩

end Sys2Proof
end

section
/-! O18 to O22: ADD, AND and NOT (40_operate.md R69 to R73). Each writes one value, computed from the registers as they
were, so `writesOnlyResult_writeResult` is the whole frame and what is left is the value. -/

namespace Sys2Proof

namespace Machine

/-- A result written to `s` itself leaves memory and the host alone too. -/
theorem writesOnlyResult_writeResult (s : State) (d : RegId) (v : Word) :
    ResultWritten s (s.writeResult d v) d v ∧ SameMem s (s.writeResult d v) ∧ SameHost s (s.writeResult d v) :=
  ⟨resultWritten_writeResult d v rfl rfl ⟨rfl, rfl, rfl⟩, fun a => s.writeResult_rawRead d v a,
    s.writeResult_input d v, s.writeResult_draws d v, s.writeResult_freeDraws d v⟩

/-! ### What each instruction writes -/

theorem exec_addReg (d a b : RegId) (g : BitVec 2) (s : State) :
    exec (.addReg d a g b) s = .next (s.writeResult d (s.reg a + s.reg b)) := rfl

theorem exec_addImm (d a : RegId) (imm : BitVec 5) (s : State) :
    exec (.addImm d a imm) s = .next (s.writeResult d (s.reg a + sext imm)) := rfl

theorem exec_andReg (d a b : RegId) (g : BitVec 2) (s : State) :
    exec (.andReg d a g b) s = .next (s.writeResult d (s.reg a &&& s.reg b)) := rfl

theorem exec_andImm (d a : RegId) (imm : BitVec 5) (s : State) :
    exec (.andImm d a imm) s = .next (s.writeResult d (s.reg a &&& sext imm)) := rfl

theorem exec_not (d a : RegId) (g : BitVec 6) (s : State) :
    exec (.not d a g) s = .next (s.writeResult d (~~~ s.reg a)) := rfl

end Machine

open Machine

/-- Settles O18: the sum of words is the sum of their numbers modulo `2 ^ 16`. -/
theorem addRegisterAddsModulo65536 : Obligations.AddRegisterAddsModulo65536 := fun d a b g s =>
  ⟨decode_encode (.addReg d a g b), _, _, exec_addReg d a b g s, BitVec.toNat_add (s.reg a) (s.reg b),
    writesOnlyResult_writeResult s d _⟩

/-- Settles O19: as O18, with the sign-extended immediate for the second word. -/
theorem addImmediateAddsModulo65536 : Obligations.AddImmediateAddsModulo65536 := fun d a imm s =>
  ⟨decode_encode (.addImm d a imm), _, _, exec_addImm d a imm s, BitVec.toNat_add (s.reg a) (sext imm),
    writesOnlyResult_writeResult s d _⟩

/-- Settles O20: `&&&` works bit by bit. -/
theorem andRegisterAndsBitwise : Obligations.AndRegisterAndsBitwise := fun d a b g s =>
  ⟨decode_encode (.andReg d a g b), _, _, exec_andReg d a b g s, fun _ _ => BitVec.getLsbD_and,
    writesOnlyResult_writeResult s d _⟩

/-- Settles O21: as O20, with the sign-extended immediate for the second word. -/
theorem andImmediateAndsBitwise : Obligations.AndImmediateAndsBitwise := fun d a imm s =>
  ⟨decode_encode (.andImm d a imm), _, _, exec_andImm d a imm s, fun _ _ => BitVec.getLsbD_and,
    writesOnlyResult_writeResult s d _⟩

/-- Settles O22: the complement of a 16-bit word is `2 ^ 16 - 1` less the word. -/
theorem notComplements : Obligations.NotComplements := fun d a g s =>
  ⟨decode_encode (.not d a g), _, _, exec_not d a g s, BitVec.toNat_not, writesOnlyResult_writeResult s d _⟩

end Sys2Proof
end

section
/-! O23 to O26: LD, LDI, LDR and LEA (41_loads.md R74 to R77). The three loads end in `State.loadResult`, LDI in the state
after its pointer read, so its frame is said once for any state that MemReads lead to. -/

namespace Sys2Proof

namespace Machine

variable {s u : State}

/-! ### A MemRead's value on the status cell -/

/-- With the device cells apart, a MemRead of the status cell gives one of the two answers. -/
theorem State.memRead_kbsr_ready_or_not (hne : s.params.kbsrAddr ≠ s.params.kbdrAddr) :
    (s.memRead s.params.kbsrAddr).1 = 0x8000#16 ∨ (s.memRead s.params.kbsrAddr).1 = 0x0000#16 := by
  rw [State.memRead_kbsr_answer hne]
  split
  · exact .inl rfl
  · exact .inr rfl

/-! ### The end of a load -/

/-- Register `d` holds what the read gives, and the read is all that memory and the host see of the load. -/
theorem resultWritten_loadResult (h : Reads s u) (d : RegId) (ea : Word) :
    ResultWritten s (u.loadResult d ea) d (u.memRead ea).1 ∧ SameMem (u.memRead ea).2 (u.loadResult d ea) ∧
      SameHost (u.memRead ea).2 (u.loadResult d ea) := by
  obtain ⟨hregs, hpc, _, hstatus, hout, hparams⟩ := (h.memRead ea).frame
  obtain ⟨_, hmem, hhost⟩ := writesOnlyResult_writeResult (u.memRead ea).2 d (u.memRead ea).1
  exact ⟨resultWritten_writeResult d _ hregs hpc ⟨hstatus, hout, hparams⟩, hmem, hhost⟩

/-- Off the status cell a load writes the cell's value and has no other effect. -/
theorem State.loadResult_of_ne {ea : Word} (h : ea ≠ s.params.kbsrAddr) (d : RegId) :
    s.loadResult d ea = s.writeResult d (s.rawRead ea) := by
  rw [State.loadResult, State.memRead_of_ne h]

/-- Off the status cell a load leaves memory and the host alone. -/
theorem loadResult_plain {ea : Word} (h : ea ≠ s.params.kbsrAddr) (d : RegId) :
    (s.loadResult d ea).reg d = s.rawRead ea ∧ SameMem s (s.loadResult d ea) ∧ SameHost s (s.loadResult d ea) := by
  rw [State.loadResult_of_ne h]
  obtain ⟨⟨hvalue, _⟩, hmem, hhost⟩ := writesOnlyResult_writeResult s d (s.rawRead ea)
  exact ⟨hvalue, hmem, hhost⟩

/-- On the status cell, with the device cells apart, a load gives 0x8000 with N or 0x0000 with Z. -/
theorem loadResult_kbsr (hne : s.params.kbsrAddr ≠ s.params.kbdrAddr) (d : RegId) :
    ((s.loadResult d s.params.kbsrAddr).reg d = 0x8000#16 ∧ (s.loadResult d s.params.kbsrAddr).cond = .n) ∨
      ((s.loadResult d s.params.kbsrAddr).reg d = 0x0000#16 ∧ (s.loadResult d s.params.kbsrAddr).cond = .z) := by
  unfold State.loadResult
  rcases State.memRead_kbsr_ready_or_not hne with hv | hv <;> rw [hv]
  · exact .inl ⟨State.reg_setReg_self _ d _, rfl⟩
  · exact .inr ⟨State.reg_setReg_self _ d _, rfl⟩

/-! ### What each instruction writes -/

theorem exec_ld (d : RegId) (off : BitVec 9) (s : State) :
    exec (.ld d off) s = .next (s.loadResult d (s.pc + sext off)) := rfl

theorem exec_ldi (d : RegId) (off : BitVec 9) (s : State) :
    exec (.ldi d off) s =
      .next ((s.memRead (s.pc + sext off)).2.loadResult d (s.memRead (s.pc + sext off)).1) := rfl

theorem exec_ldr (d b : RegId) (off : BitVec 6) (s : State) :
    exec (.ldr d b off) s = .next (s.loadResult d (s.reg b + sext off)) := rfl

theorem exec_lea (d : RegId) (off : BitVec 9) (s : State) :
    exec (.lea d off) s = .next (s.writeResult d (s.pc + sext off)) := rfl

end Machine

open Machine

/-- Settles O23: the frame of a load, then its value off and on the status cell. -/
theorem ldLoadsPcRelative : Obligations.LdLoadsPcRelative := by
  intro d off s
  obtain ⟨hresult, hmem, hhost⟩ := resultWritten_loadResult .refl d (s.pc + sext off)
  refine ⟨decode_encode (.ld d off), _, _, exec_ld d off s, BitVec.toNat_add s.pc (sext off), hresult, hmem, hhost,
    fun hea => loadResult_plain hea d, fun hea hne => ?_⟩
  rw [hea]
  exact loadResult_kbsr hne d

/-- Settles O24: the second read is a load in the state after the first, which off the status cell is the state
itself. -/
theorem ldiLoadsThroughPointer : Obligations.LdiLoadsThroughPointer := by
  intro d off s
  obtain ⟨hresult, hmem, hhost⟩ :=
    resultWritten_loadResult (.memRead .refl (s.pc + sext off)) d (s.memRead (s.pc + sext off)).1
  refine ⟨decode_encode (.ldi d off), _, _, (s.memRead (s.pc + sext off)).2, (s.memRead (s.pc + sext off)).1,
    exec_ldi d off s, BitVec.toNat_add s.pc (sext off), rfl, hresult, hmem, hhost, fun hpa => ?pointer,
    fun hpa hne => ?polled, fun hpa hptr => ?plain⟩
  case pointer => rw [State.memRead_of_ne hpa]
  case polled =>
    rw [hpa]
    exact State.memRead_kbsr_ready_or_not hne
  case plain =>
    rw [State.memRead_of_ne hpa] at hptr ⊢
    exact loadResult_plain hptr d

/-- Settles O25: the address is computed from the registers before the load, whatever `d` is. -/
theorem ldrLoadsBasePlusOffset : Obligations.LdrLoadsBasePlusOffset := by
  intro d b off s
  obtain ⟨hresult, hmem, hhost⟩ := resultWritten_loadResult .refl d (s.reg b + sext off)
  exact ⟨decode_encode (.ldr d b off), _, _, exec_ldr d b off s, BitVec.toNat_add (s.reg b) (sext off), hresult, hmem,
    hhost, fun hea => loadResult_plain hea d⟩

/-- Settles O26: the address itself is the result, and no MemRead takes place. -/
theorem leaComputesTheAddress : Obligations.LeaComputesTheAddress := fun d off s =>
  ⟨decode_encode (.lea d off), _, _, exec_lea d off s, BitVec.toNat_add s.pc (sext off),
    writesOnlyResult_writeResult s d _⟩

end Sys2Proof
end

section
/-! O27 to O29: ST, STI and STR (42_stores.md R78 to R80). Each ends in one MemWrite, whose whole frame is
`cellStored_rawWrite`; STI stores in the state after its pointer read, which changes memory and the host at most. -/

namespace Sys2Proof

namespace Machine

/-- A store after MemReads leaves registers, COND, PC, status, output and parameters as they were before the reads. -/
theorem memWrite_frame_of_reads {s u : State} (h : Reads s u) (a v : Word) :
    SameRegs s (u.memWrite a v) ∧ (u.memWrite a v).cond = s.cond ∧ (u.memWrite a v).pc = s.pc ∧
      SameControl s (u.memWrite a v) := by
  obtain ⟨_, hpc, hcond, hstatus, hout, hparams⟩ := h.frame
  exact ⟨h.reg, hcond, hpc, hstatus, hout, hparams⟩

/-! ### Where each instruction stores -/

theorem exec_st (r : RegId) (off : BitVec 9) (s : State) :
    exec (.st r off) s = .next (s.memWrite (s.pc + sext off) (s.reg r)) := rfl

theorem exec_sti (r : RegId) (off : BitVec 9) (s : State) :
    exec (.sti r off) s =
      .next ((s.memRead (s.pc + sext off)).2.memWrite (s.memRead (s.pc + sext off)).1 (s.reg r)) := rfl

theorem exec_str (r b : RegId) (off : BitVec 6) (s : State) :
    exec (.str r b off) s = .next (s.memWrite (s.reg b + sext off) (s.reg r)) := rfl

end Machine

open Machine

/-- Settles O27: the address is the sum of words, so it wraps modulo `2 ^ 16`. -/
theorem stStoresPcRelative : Obligations.StStoresPcRelative := fun r off s =>
  ⟨decode_encode (.st r off), _, _, exec_st r off s, BitVec.toNat_add s.pc (sext off), cellStored_rawWrite s _ _⟩

/-- Settles O28: the store is framed against the state after the pointer read, which off the status cell is the state
itself. -/
theorem stiStoresThroughPointer : Obligations.StiStoresThroughPointer := by
  intro r off s
  obtain ⟨hregs, hcond, hpc, hcontrol⟩ :=
    memWrite_frame_of_reads (.memRead .refl (s.pc + sext off)) (s.memRead (s.pc + sext off)).1 (s.reg r)
  refine ⟨decode_encode (.sti r off), _, _, (s.memRead (s.pc + sext off)).2, (s.memRead (s.pc + sext off)).1,
    exec_sti r off s, BitVec.toNat_add s.pc (sext off), rfl, cellStored_rawWrite _ _ _, hregs, hcond, hpc, hcontrol,
    fun hpa => ?plain, fun hpa hne => ?polled⟩
  case plain =>
    rw [State.memRead_of_ne hpa]
    exact ⟨rfl, cellStored_rawWrite s _ _⟩
  case polled =>
    rw [hpa]
    exact State.memRead_kbsr_ready_or_not hne

/-- Settles O29: the address and the value are read from the registers before the store, which writes none, so SR may be
BaseR. -/
theorem strStoresBasePlusOffset : Obligations.StrStoresBasePlusOffset := fun r b off s =>
  ⟨decode_encode (.str r b off), _, _, exec_str r b off s, BitVec.toNat_add (s.reg b) (sext off),
    cellStored_rawWrite s _ _⟩

end Sys2Proof
end

section
/-! O30 and O32 to O34: BR, JMP, JSR and JSRR (43_control.md R81 to R84). A BR with a condition bit set faults, jumps or
stays, by COND and the policy; JSR and JSRR make one state, the link in R7 with a new PC. -/

namespace Sys2Proof

namespace Machine

/-! ### The branch, case by case -/

theorem nzpBits_ne_zero_iff {n z p : Bool} : nzpBits n z p ≠ 0b000#3 ↔ n = true ∨ z = true ∨ p = true := by
  revert n z p
  decide

theorem not_condMatches_none (n z p : Bool) : ¬ CondMatches n z p .none := by
  simp [CondMatches]

/-- Only a condition bit that is set can match. -/
theorem CondMatches.nzpBits_ne_zero {n z p : Bool} {c : Cond} (h : CondMatches n z p c) : nzpBits n z p ≠ 0b000#3 := by
  rw [nzpBits_ne_zero_iff]
  rcases h with ⟨hn, -⟩ | ⟨hz, -⟩ | ⟨hp, -⟩
  · exact .inl hn
  · exact .inr (.inl hz)
  · exact .inr (.inr hp)

section
variable {n z p : Bool} {s : State}

theorem exec_br_of_unset (off : BitVec 9) (hbits : n = true ∨ z = true ∨ p = true) (hnone : s.cond = .none)
    (hfault : s.params.condNonePolicy = .fault) :
    exec (.br n z p off) s = .next (s.setStatus (.faulted (.condUnset (encode (.br n z p off)) s.instrAddr))) :=
  (if_neg (nzpBits_ne_zero_iff.mpr hbits)).trans (if_pos ⟨hnone, hfault⟩)

theorem exec_br_of_matches (off : BitVec 9) (h : CondMatches n z p s.cond) :
    exec (.br n z p off) s = .next (s.setPc (s.pc + sext off)) := by
  have hset : ¬ (s.cond = .none ∧ s.params.condNonePolicy = .fault) := fun ⟨hnone, _⟩ =>
    not_condMatches_none n z p (hnone ▸ h)
  exact (if_neg h.nzpBits_ne_zero).trans ((if_neg hset).trans (if_pos ((branchTaken_iff ..).mpr h)))

/-- Where it does not fault, a BR that matches nothing leaves the state, COND unset or not. -/
theorem exec_br_of_not_matches (off : BitVec 9) (hset : s.cond = .none → s.params.condNonePolicy ≠ .fault)
    (h : ¬ CondMatches n z p s.cond) : exec (.br n z p off) s = .next s := by
  have hstay : ¬ branchTaken (nzpBits n z p) s.cond = true := mt (branchTaken_iff ..).mp h
  change execBr n z p off s = .next s
  unfold execBr
  rw [if_neg (not_and.mpr hset), if_neg hstay, ite_self]

end

/-! ### The jumps and the link -/

theorem exec_jmp (g : BitVec 3) (b : RegId) (k : BitVec 6) (s : State) :
    exec (.jmp g b k) s = .next (s.setPc (s.reg b)) := rfl

theorem exec_jsr (off : BitVec 11) (s : State) :
    exec (.jsr off) s = .next ((s.setReg 7#3 s.pc).setPc (s.pc + sext off)) := rfl

theorem exec_jsrr (g : BitVec 2) (b : RegId) (k : BitVec 6) (s : State) :
    exec (.jsrr g b k) s = .next ((s.setReg 7#3 s.pc).setPc
      (if b = 7#3 ∧ s.params.jsrrLinkOrder = .linkFirst then s.pc else s.reg b)) := by
  obtain ⟨t, ht⟩ := exec_eq_next (.jsrr g b k) s
  rw [ht, execJsrr_eq_next (show execJsrr g b k s = .next t from ht)]

/-- The link in R7 with any new PC is the whole effect. -/
theorem linked_frame {s t : State} {target : Word} (h : t = (s.setReg 7#3 s.pc).setPc target) :
    SameRegsBut 7#3 s t ∧ t.cond = s.cond ∧ SameMem s t ∧ SameControl s t ∧ SameHost s t := by
  subst h
  refine ⟨fun r hr => ?_, rfl, fun _ => rfl, ⟨rfl, rfl, rfl⟩, rfl, rfl, rfl⟩
  rw [State.setPc_reg, State.reg_setReg, if_neg hr]

end Machine

open Machine

/-- Settles O30: the cases are whether a bit is set, whether COND is, and whether they match; COND = NONE matches
nothing. -/
theorem branchTestsCondBits : Obligations.BranchTestsCondBits := by
  intro n z p off s
  refine ⟨decode_encode (.br n z p off), ?noBits, exec_br_of_unset off, fun _ hnone hpolicy => ?noBranch,
    exec_br_of_matches off, fun hset => exec_br_of_not_matches off fun hnone => absurd hnone hset⟩
  case noBits =>
    rintro ⟨rfl, rfl, rfl⟩
    exact exec_br_no_bits off s
  case noBranch =>
    refine exec_br_of_not_matches off (fun _ => by simp [hpolicy]) ?_
    rw [hnone]
    exact not_condMatches_none n z p

/-- Settles O33: the target is a sum of words, so it wraps modulo `2 ^ 16`. -/
theorem jsrLinksAndJumpsPcRelative : Obligations.JsrLinksAndJumpsPcRelative := fun off s =>
  ⟨decode_encode (.jsr off), _, exec_jsr off s, s.reg_setReg_self 7#3 s.pc, BitVec.toNat_add s.pc (sext off),
    linked_frame rfl⟩

/-- Settles O34: BaseR is read after the link only for R7 under link_first. -/
theorem jsrrLinksAndJumpsToBase : Obligations.JsrrLinksAndJumpsToBase := by
  intro g b k s
  refine ⟨decode_encode (.jsrr g b k), _, exec_jsrr g b k s, s.reg_setReg_self 7#3 s.pc, fun hb => ?other,
    fun hb horder => ?linkFirst, fun hb horder => ?targetFirst, linked_frame rfl⟩
  case other => exact if_neg fun ⟨h7, _⟩ => hb h7
  case linkFirst => exact if_pos ⟨hb, horder⟩
  case targetFirst => simp [hb, horder]

/-- Settles O32: no case is made of BaseR = 7. -/
theorem jmpGoesToBaseRegister : Obligations.JmpGoesToBaseRegister := fun g b k s =>
  ⟨decode_encode (.jmp g b k), exec_jmp g b k s⟩

end Sys2Proof
end

section
/-! O35 and O43: the dispatch of TRAP (44_trap.md R85) and the unknown vectors (R92). The whole row runs the row that
the decoder answers for its vector; no register but R0, no memory and no parameter is written. -/

namespace Sys2Proof

/-- The unknown vectors are those on either side of the six routines. -/
theorem knownVector_eq_false_iff {v : BitVec 8} : knownVector v = false ↔ v.toNat < 0x20 ∨ 0x25 < v.toNat := by
  simp only [knownVector, Bool.or_eq_false_iff, beq_eq_false_iff_ne, ne_eq, ← BitVec.toNat_inj, BitVec.toNat_ofNat]
  omega

/-- A TRAP writes no register but R0. -/
theorem Instr.writesReg_trap_ne {g : BitVec 4} {v : BitVec 8} {r : RegId} (hr : r ≠ 0#3) :
    (Instr.trap g v).writesReg ≠ some r := by
  change (if v = 0x20#8 ∨ v = 0x23#8 then some 0#3 else none) ≠ some r
  split <;> simp [Ne.symm hr]

namespace Machine

/-- Bits 11:8 of a TRAP reach no meaning. -/
theorem exec_trap_eq_decodeTrap (g h : BitVec 4) (v : BitVec 8) (s : State) :
    exec (.trap g v) s = exec (decodeTrap h v) s :=
  (exec_decodeTrap h v s).symm

theorem exec_trap_of_unknown (g h : BitVec 4) {v : BitVec 8} (hv : v.toNat < 0x20 ∨ 0x25 < v.toNat) (s : State) :
    exec (.trap g v) s = exec (.trapUnknown h v) s := by
  rw [exec_trap_eq_decodeTrap g h, decodeTrap_of_unknown h (knownVector_eq_false_iff.mpr hv)]

/-! ### No routine writes memory -/

section Routines

variable {s t : State}

theorem routineGetc_mem (h : routineGetc s = .next t) : t.mem = s.mem := by
  rcases routineGetc_cases h with ⟨-, rfl⟩ | ⟨b, rest, -, rfl⟩ <;> simp

theorem routineIn_mem (h : routineIn s = .next t) : t.mem = s.mem := by
  rcases routineIn_cases h with ⟨-, rfl⟩ | ⟨b, rest, -, rfl⟩ <;> simp

theorem routineString_mem {r : StringRoutine} {f : Word → List Byte} (h : routineString r f s = .next t) :
    t.mem = s.mem := by
  rcases routineString_cases h with ⟨buf, -, rfl⟩ | ⟨e, -, rfl⟩ <;> rfl

theorem routineUnknown_mem {v : BitVec 8} (h : routineUnknown v s = .next t) : t.mem = s.mem := by
  rcases routineUnknown_cases h with ⟨-, rfl⟩ | ⟨-, rfl⟩ <;> rfl

theorem execTrap_mem {g : BitVec 4} {v : BitVec 8} (h : execTrap g v s = .next t) : t.mem = s.mem := by
  unfold execTrap at h
  split at h
  · exact routineGetc_mem h
  split at h
  · cases h; rfl
  split at h
  · exact routineString_mem h
  split at h
  · exact routineIn_mem h
  split at h
  · exact routineString_mem h
  split at h
  · cases h; rfl
  · exact routineUnknown_mem h

end Routines

/-! ### Registers, COND and PC after a TRAP -/

/-- Only GETC and IN write R0 or COND, and only they may hold. -/
theorem Effect.trap_of_not_input {g : BitVec 4} {v : BitVec 8} {s t : State} (h : Effect s (.trap g v) t)
    (hgetc : v ≠ 0x20#8) (hin : v ≠ 0x23#8) : t.reg 0#3 = s.reg 0#3 ∧ t.cond = s.cond ∧ t.pc = s.pc := by
  have hreads : (Instr.trap g v).readsInput = false := by simp [Instr.readsInput, hgetc, hin]
  refine ⟨h.reg (by simp [Instr.writesReg, hgetc, hin]), ?_, h.pc rfl hreads⟩
  rcases h.cond with ⟨d, hd, -⟩ | ⟨-, hcond⟩ | ⟨-, -, hcond⟩ | ⟨hinput, -⟩
  · simp [Instr.setsFlagsFrom] at hd
  · exact hcond
  · exact hcond
  · simp [hreads] at hinput

/-! ### The two policies -/

section Policy

variable {v : BitVec 8} {s : State}

theorem exec_trapUnknown_fault (g : BitVec 4) (hp : s.params.unknownTrapPolicy = .fault) :
    exec (.trapUnknown g v) s = .next (s.setStatus (.faulted (.unknownTrapVector v s.instrAddr))) := by
  change routineUnknown v s = _
  rw [routineUnknown, hp, raiseFault]

theorem exec_trapUnknown_nop (g : BitVec 4) (hp : s.params.unknownTrapPolicy = .nop) :
    exec (.trapUnknown g v) s = .next s := by
  change routineUnknown v s = _
  rw [routineUnknown, hp]

end Policy

end Machine

open Machine

/-- Settles O35: the known vectors are six rows of the decoder's own dispatch, the rest is the unknown vector; the frame
is that of `Effect`, memory aside, which a store of `Effect` may change but no routine does. -/
theorem trapDispatchesByVector : Obligations.TrapDispatchesByVector := by
  intro g h v s
  obtain ⟨t, ht⟩ := exec_eq_next (.trap g v) s
  have heffect := exec_effect ht
  refine ⟨decode_encode (.trap g v), ?dispatch, t, ht, fun r hr => heffect.reg (Instr.writesReg_trap_ne hr),
    fun a => ?mem, heffect.params, heffect.trap_of_not_input⟩
  case mem => rw [State.rawRead, State.rawRead, execTrap_mem (g := g) (v := v) ht]
  case dispatch =>
    split
    case h_7 => exact exec_trap_of_unknown g h (by simp only [imp_false] at *; omega) s
    all_goals
      next hv =>
        obtain ⟨-, rfl⟩ := BitVec.toNat_eq_nat.mp hv
        exact exec_trap_eq_decodeTrap g h _ s

/-- Settles O43: an unknown vector, as the row of its own or as the whole row, does what the policy says. -/
theorem unknownTrapFollowsPolicy : Obligations.UnknownTrapFollowsPolicy := by
  intro g v s hv
  rw [exec_trap_of_unknown g g hv]
  refine ⟨?decoded, fun hp => ?fault, fun hp => ?nop⟩
  case decoded =>
    exact (decode_encode_trap g v).trans (decodeTrap_of_unknown g (knownVector_eq_false_iff.mpr hv))
  case fault => exact ⟨exec_trapUnknown_fault g hp, exec_trapUnknown_fault g hp⟩
  case nop => exact ⟨exec_trapUnknown_nop g hp, exec_trapUnknown_nop g hp⟩

end Sys2Proof
end

section
/-! O36, O37, O39 and O42: GETC, OUT, IN and HALT (44_trap.md R86, R87, R89, R91). GETC and IN end in one state, the byte
taken off the stream and written to R0; IN writes prompt and echo on top. -/

namespace Sys2Proof

namespace Machine

/-! ### The byte taken -/

section Taken

variable {s t : State} {b : Byte}

/-- The end of GETC, from the state whose stream is one byte shorter. -/
theorem inputTaken_inputResult (s : State) (b : Byte) : InputTaken s (s.dropInput.inputResult b) b := by
  obtain ⟨hpc, hstatus, -, hparams, hmem, hdraws, hfree, -⟩ := s.dropInput.inputResult_frame b
  refine ⟨?_, fun r hr => ?_, fun hflags => ?_, fun hflags => ?_, hpc, fun a => ?_, hstatus, hparams, hdraws, hfree⟩
  · rw [State.inputResult_reg, if_pos rfl, zext8_toNat]
  · rw [State.inputResult_reg, if_neg hr, State.dropInput_reg]
  · simp [State.inputResult_reg, State.inputResult_cond, hflags, condIs_condOf]
  · simp [State.inputResult_cond, hflags]
  · rw [State.rawRead, hmem, State.dropInput_mem, State.rawRead]

/-- The output is no part of what `InputTaken` says. -/
theorem InputTaken.emit (h : InputTaken s t b) (bs : List Byte) : InputTaken s (t.emit bs) b := h

theorem State.inputResult_dropInput_input {rest : List Byte} (h : s.input = b :: rest) :
    (s.dropInput.inputResult b).input = rest := by
  rw [State.inputResult_input, State.dropInput_input, h, List.tail_cons]

@[simp] theorem State.inputResult_out (s : State) (b : Byte) : (s.inputResult b).out = s.out := by
  obtain ⟨-, -, hout, -⟩ := s.inputResult_frame b
  exact hout

end Taken

/-! ### What each instruction answers -/

section Answers

variable {s : State}

theorem exec_trapGetc_of_cons (g : BitVec 4) {b : Byte} {rest : List Byte} (h : s.input = b :: rest) :
    exec (.trapGetc g) s = .next (s.dropInput.inputResult b) := by
  change routineGetc s = _
  rw [routineGetc, State.inRead_eq_some.mpr ⟨rest, h, rfl⟩]

theorem exec_trapGetc_of_nil (g : BitVec 4) (h : s.input = []) :
    exec (.trapGetc g) s = .next (s.setPc s.instrAddr) := by
  change routineGetc s = _
  rw [routineGetc, State.inRead_eq_none.mpr h, hold]

theorem exec_trapIn_of_cons (g : BitVec 4) {b : Byte} {rest : List Byte} (h : s.input = b :: rest) :
    exec (.trapIn g) s = .next ((s.dropInput.inputResult b).emit (s.params.inPrompt ++ [b])) := by
  change routineIn s = _
  rw [routineIn, State.inRead_eq_some.mpr ⟨rest, h, rfl⟩]

theorem exec_trapIn_of_nil (g : BitVec 4) (h : s.input = []) :
    exec (.trapIn g) s = .next (s.setPc s.instrAddr) := by
  change routineIn s = _
  rw [routineIn, State.inRead_eq_none.mpr h, hold]

theorem lowByte_eq_ofNat_mod (w : Word) : lowByte w = BitVec.ofNat 8 (w.toNat % 256) := by
  rw [lowByte_eq_ofNat, ← BitVec.toNat_inj, BitVec.toNat_ofNat, BitVec.toNat_ofNat, Nat.mod_mod]

theorem exec_trapOut (g : BitVec 4) (s : State) :
    exec (.trapOut g) s = .next (s.emit [lowByte (s.reg 0#3)]) := rfl

theorem exec_trapHalt (g : BitVec 4) (s : State) :
    exec (.trapHalt g) s = .next ((s.emit s.params.haltNotice).setStatus .halted) := rfl

/-- A core that is not running takes no step (10_state.md R27). -/
theorem step_ne_next_of_not_running {t : State} (h : s.status ≠ .running) : step s ≠ .next t := by
  intro hstep
  obtain ⟨hrunning, -⟩ := running_of_step_eq_next hstep
  exact h hrunning

end Answers

end Machine

open Machine

/-- Settles O36: the whole row runs GETC too, which takes the next byte or holds. -/
theorem getcReadsOneByte : Obligations.GetcReadsOneByte := by
  intro g s
  rw [exec_trap_eq_decodeTrap g g]
  refine ⟨decode_encode (.trapGetc g), fun b rest hinput => ?_, fun hempty => ?_⟩
  · have hexec := exec_trapGetc_of_cons g hinput
    exact ⟨_, hexec, hexec, inputTaken_inputResult s b, State.inputResult_dropInput_input hinput,
      s.dropInput.inputResult_out b⟩
  · exact ⟨exec_trapGetc_of_nil g hempty, exec_trapGetc_of_nil g hempty⟩

/-- Settles O39: the state that GETC leaves, with prompt and echo written. -/
theorem inPromptsAndEchoes : Obligations.InPromptsAndEchoes := by
  intro g s
  rw [exec_trap_eq_decodeTrap g g]
  refine ⟨decode_encode (.trapIn g), fun b rest hinput => ?_, fun hempty => ?_⟩
  · have hexec := exec_trapIn_of_cons g hinput
    exact ⟨_, hexec, hexec, (inputTaken_inputResult s b).emit _, State.inputResult_dropInput_input hinput,
      by rw [State.emit_out, State.inputResult_out, State.dropInput_out]⟩
  · exact ⟨exec_trapIn_of_nil g hempty, exec_trapIn_of_nil g hempty⟩

/-- Settles O37: the low byte of a word is its number modulo 256. -/
theorem outWritesTheLowByte : Obligations.OutWritesTheLowByte := by
  intro g s
  have hexec := exec_trapOut g s
  rw [lowByte_eq_ofNat_mod] at hexec
  exact ⟨decode_encode (.trapOut g), hexec, (exec_trap_eq_decodeTrap g g _ s).trans hexec⟩

/-- Settles O42: the answer is HALTED, and a core takes a step only while RUNNING. -/
theorem haltStopsTheCore : Obligations.HaltStopsTheCore := by
  intro g s
  have hexec := exec_trapHalt g s
  refine ⟨decode_encode (.trapHalt g), hexec, (exec_trap_eq_decodeTrap g g _ s).trans hexec, fun t t' ht => ?_⟩
  obtain rfl := Host.Outcome.next.inj (hexec.symm.trans ht)
  exact step_ne_next_of_not_running (by simp)

end Sys2Proof
end

section
/-! O38, O40 and O41: PUTS and PUTSP (44_trap.md R88, R90). A scan has a first cell that ends it, zero or the status cell,
or runs over 0xFFFF; the scan's one result tells the two ends apart, whatever bytes a routine writes. -/

namespace Sys2Proof

namespace Machine

variable {s : State} {a e : Word} {str : List Word}

/-! ### The two ends of a scan -/

/-- The `k` cells from `a` on. -/
def State.cellsFrom (s : State) (a : Word) (k : Nat) : List Word :=
  (List.range k).map fun j => s.rawRead (a + BitVec.ofNat 16 j)

/-- A run of cells scanned over, then a zero cell, is a string. -/
theorem ScannedOver.stringAt {k : Nat} (h : ScannedOver s a k) (hk : a.toNat + k < 65536)
    (hzero : s.rawRead (a + BitVec.ofNat 16 k) = 0#16) (hoff : a + BitVec.ofNat 16 k ≠ s.params.kbsrAddr) :
    StringAt s a (s.cellsFrom a k) := by
  have hlen : (s.cellsFrom a k).length = k := by simp [State.cellsFrom]
  refine ⟨by rwa [hlen], fun w hw => ?_, fun j hj => by simp [State.cellsFrom], by rwa [hlen], fun j hj => ?_⟩
  · obtain ⟨j, hj, rfl⟩ := List.mem_map.mp hw
    exact (h j (List.mem_range.mp hj)).1
  · rcases Nat.lt_or_eq_of_le (hlen ▸ hj) with hlt | rfl
    · exact (h j hlt).2
    · exact hoff

theorem ScannedOver.succ {k : Nat} (h : ScannedOver s a k) (hcell : s.rawRead (a + BitVec.ofNat 16 k) ≠ 0#16)
    (hoff : a + BitVec.ofNat 16 k ≠ s.params.kbsrAddr) : ScannedOver s a (k + 1) := by
  intro j hj
  rcases Nat.lt_succ_iff_lt_or_eq.mp hj with hlt | rfl
  · exact h j hlt
  · exact ⟨hcell, hoff⟩

/-- Within the cells up to 0xFFFF, a scan runs over `k` of them, or ends before. -/
theorem scannedOver_or_ends (s : State) (a : Word) (k : Nat) (hk : a.toNat + k ≤ 65536) :
    ScannedOver s a k ∨ (∃ str, StringAt s a str) ∨ ∃ e, ScanStopsAt s a e := by
  induction k with
  | zero => exact .inl fun j hj => absurd hj j.not_lt_zero
  | succ k ih =>
    refine (ih (by omega)).elim (fun hover => ?_) .inr
    by_cases hoff : a + BitVec.ofNat 16 k = s.params.kbsrAddr
    · exact .inr (.inr ⟨_, .inl ⟨k, hk, hover, rfl, hoff⟩⟩)
    by_cases hzero : s.rawRead (a + BitVec.ofNat 16 k) = 0#16
    · exact .inr (.inl ⟨_, hover.stringAt hk hzero hoff⟩)
    · exact .inl (hover.succ hzero hoff)

/-- Every scan ends at a zero cell or stops. -/
theorem stringAt_or_scanStopsAt (s : State) (a : Word) : (∃ str, StringAt s a str) ∨ ∃ e, ScanStopsAt s a e := by
  have := a.isLt
  rcases scannedOver_or_ends s a (65536 - a.toNat) (by omega) with hover | hends
  · exact .inr ⟨_, .inr ⟨hover, rfl⟩⟩
  · exact hends

/-- A string and a stop would be two results of one scan. -/
theorem StringAt.not_scanStopsAt (h : StringAt s a str) : ¬ ScanStopsAt s a e := fun hstop =>
  nomatch (scanString_of_stringAt putsBytes s str a h).symm.trans (scanString_of_stopsAt putsBytes hstop)

theorem ScanStopsAt.unique {e' : Word} (h : ScanStopsAt s a e) (h' : ScanStopsAt s a e') : e' = e :=
  Except.error.inj ((scanString_of_stopsAt putsBytes h').symm.trans (scanString_of_stopsAt putsBytes h))

/-- No string goes on over the zero cell of another. -/
theorem StringAt.length_le {str' : List Word} (h : StringAt s a str) (h' : StringAt s a str') :
    str'.length ≤ str.length := by
  obtain ⟨-, -, -, hzero, -⟩ := h
  obtain ⟨-, hnonzero, hcells, -, -⟩ := h'
  refine Nat.le_of_not_lt fun hlt => ?_
  exact hnonzero _ (List.getElem_mem hlt) ((hcells _ hlt).symm.trans hzero)

theorem StringAt.unique {str' : List Word} (h : StringAt s a str) (h' : StringAt s a str') : str' = str := by
  refine List.ext_getElem (Nat.le_antisymm (h.length_le h') (h'.length_le h)) fun j hj hj' => ?_
  obtain ⟨-, -, hcells, -, -⟩ := h
  obtain ⟨-, -, hcells', -, -⟩ := h'
  exact (hcells' j hj).symm.trans (hcells j hj')

/-! ### The bytes of a cell -/

theorem putsBytes_eq (w : Word) : putsBytes w = [BitVec.ofNat 8 w.toNat] :=
  congrArg ([·]) (lowByte_eq_ofNat w)

theorem flatMap_putsBytes (str : List Word) : str.flatMap putsBytes = str.map fun w => BitVec.ofNat 8 w.toNat := by
  simp only [funext putsBytes_eq, List.map_eq_flatMap]

theorem highByte_eq_zero_iff (w : Word) : highByte w = 0#8 ↔ w.toNat / 256 = 0 := by
  have := w.isLt
  rw [highByte_eq_ofNat, ← BitVec.toNat_inj, BitVec.toNat_ofNat, BitVec.toNat_ofNat]
  omega

theorem putspBytes_eq_packedBytes : putspBytes = packedBytes := by
  funext w
  simp only [putspBytes, packedBytes, highByte_eq_zero_iff]
  rw [lowByte_eq_ofNat, highByte_eq_ofNat]
  split <;> rfl

/-! ### What the two routines answer -/

theorem routineString_of_stringAt (r : StringRoutine) (f : Word → List Byte) (h : StringAt s (s.reg 0#3) str) :
    routineString r f s = .next (s.emit (str.flatMap f)) := by
  rw [routineString, scanString_of_stringAt f s str _ h]

theorem routineString_of_stopsAt (r : StringRoutine) (f : Word → List Byte) (h : ScanStopsAt s (s.reg 0#3) e) :
    routineString r f s = .next (s.setStatus (.faulted (.trapStringUnmodelled r e))) := by
  rw [routineString, scanString_of_stopsAt f h]
  rfl

theorem exec_trapPuts_of_stringAt (g : BitVec 4) (h : StringAt s (s.reg 0#3) str) :
    exec (.trapPuts g) s = .next (s.emit (str.map fun w => BitVec.ofNat 8 w.toNat)) :=
  flatMap_putsBytes str ▸ routineString_of_stringAt .puts putsBytes h

theorem exec_trapPuts_of_stopsAt (g : BitVec 4) (h : ScanStopsAt s (s.reg 0#3) e) :
    exec (.trapPuts g) s = .next (s.setStatus (.faulted (.trapStringUnmodelled .puts e))) :=
  routineString_of_stopsAt .puts putsBytes h

theorem exec_trapPutsp_of_stringAt (g : BitVec 4) (h : StringAt s (s.reg 0#3) str) :
    exec (.trapPutsp g) s = .next (s.emit (str.flatMap packedBytes)) :=
  putspBytes_eq_packedBytes ▸ routineString_of_stringAt .putsp putspBytes h

theorem exec_trapPutsp_of_stopsAt (g : BitVec 4) (h : ScanStopsAt s (s.reg 0#3) e) :
    exec (.trapPutsp g) s = .next (s.setStatus (.faulted (.trapStringUnmodelled .putsp e))) :=
  routineString_of_stopsAt .putsp putspBytes h

end Machine

open Machine

/-- Settles O38: the whole row runs PUTS too, and a scan has the result of its end. -/
theorem putsWritesOneBytePerCell : Obligations.PutsWritesOneBytePerCell := by
  intro g s
  rw [exec_trap_eq_decodeTrap g g]
  exact ⟨decode_encode (.trapPuts g),
    fun _ hstr => ⟨exec_trapPuts_of_stringAt g hstr, exec_trapPuts_of_stringAt g hstr⟩,
    fun _ hstop => ⟨exec_trapPuts_of_stopsAt g hstop, exec_trapPuts_of_stopsAt g hstop⟩⟩

/-- Settles O40: as O38, with the bytes of `packedBytes`. -/
theorem putspWritesPackedBytes : Obligations.PutspWritesPackedBytes := by
  intro g s
  rw [exec_trap_eq_decodeTrap g g]
  exact ⟨decode_encode (.trapPutsp g),
    fun _ hstr => ⟨exec_trapPutsp_of_stringAt g hstr, exec_trapPutsp_of_stringAt g hstr⟩,
    fun _ hstop => ⟨exec_trapPutsp_of_stopsAt g hstop, exec_trapPutsp_of_stopsAt g hstop⟩⟩

/-- Settles O41: the scan from R0 ends at a zero cell or stops, not both, and in one way. -/
theorem stringScanAlwaysEnds : Obligations.StringScanAlwaysEnds := by
  intro g s
  rcases stringAt_or_scanStopsAt s (s.reg 0#3) with ⟨str, hstr⟩ | ⟨e, hstop⟩
  · exact .inl ⟨⟨str, hstr, fun _ => hstr.unique, exec_trapPuts_of_stringAt g hstr,
      exec_trapPutsp_of_stringAt g hstr⟩, fun ⟨_, hstop⟩ => hstr.not_scanStopsAt hstop⟩
  · exact .inr ⟨fun ⟨_, hstr⟩ => hstr.not_scanStopsAt hstop, e, hstop, fun _ => hstop.unique,
      exec_trapPuts_of_stopsAt g hstop, exec_trapPutsp_of_stopsAt g hstop⟩

end Sys2Proof
end

section
/-! O44 to O46: the four faults (60_exceptions.md R93 to R95). A run that faults changes the status and nothing else;
`Raises` lists which instruction raises which record, and when. -/

namespace Sys2Proof

namespace Machine

theorem Reads.status {s u : State} (h : Reads s u) : u.status = s.status := by
  obtain ⟨-, -, -, hstatus, -⟩ := h.frame
  exact hstatus

@[simp] theorem State.inputResult_status (s : State) (b : Byte) : (s.inputResult b).status = s.status := by
  obtain ⟨-, hstatus, -⟩ := s.inputResult_frame b
  exact hstatus

section Faults

variable {i : Instr} {s t : State} {f : FaultRecord}

/-! ### A fault changes the status only -/

/-- A run from a state without the fault `f` to one with it has raised it: no other shape writes FAULTED. -/
theorem Effect.eq_setStatus_of_faulted (h : Effect s i t) (hs : s.status ≠ .faulted f) (ht : t.status = .faulted f) :
    t = s.setStatus (.faulted f) := by
  cases h with
  | faults f' => exact ht ▸ rfl
  | result v hd hu | store a v hi hu => exact absurd (hu.status.symm.trans ht) hs
  | takes => exact absurd (by simpa using ht) hs
  | halts => nomatch ht
  | jump | link | stay | writes | holds => exact absurd ht hs

/-- A faulting step is the fetch and the fault. -/
theorem step_eq_setStatus_of_faulted (h : step s = .next t) (ht : t.status = .faulted f) :
    t = s.fetch.2.setStatus (.faulted f) := by
  obtain ⟨hrunning, hexec⟩ := running_of_step_eq_next h
  obtain ⟨-, -, -, hstatus, -⟩ := s.fetch_frame
  exact (exec_effect hexec).eq_setStatus_of_faulted (by simp [hstatus, hrunning]) ht

/-! ### Which instruction raises which fault -/

theorem exec_reserved8 (g : BitVec 12) (s : State) :
    exec (.reserved8 g) s =
      .next (s.setStatus (.faulted (.reservedOpcode 0x8#4 (0b1000#4 ++ g) s.instrAddr))) := by
  change reservedFault (encode (.reserved8 g)) s = _
  rw [reservedFault, opcodeOf_encode]
  rfl

theorem exec_reservedD (g : BitVec 12) (s : State) :
    exec (.reservedD g) s =
      .next (s.setStatus (.faulted (.reservedOpcode 0xD#4 (0b1101#4 ++ g) s.instrAddr))) := by
  change reservedFault (encode (.reservedD g)) s = _
  rw [reservedFault, opcodeOf_encode]
  rfl

/-- The table of R93: `i`, run from `s` (the state after the fetch), raises the fault. -/
inductive Raises (s : State) : Instr → FaultRecord → Prop
  | reserved8 (g : BitVec 12) : Raises s (.reserved8 g) (.reservedOpcode 0x8#4 (0b1000#4 ++ g) s.instrAddr)
  | reservedD (g : BitVec 12) : Raises s (.reservedD g) (.reservedOpcode 0xD#4 (0b1101#4 ++ g) s.instrAddr)
  | condUnset {n z p : Bool} (off : BitVec 9) (hbits : n = true ∨ z = true ∨ p = true) (hnone : s.cond = .none)
      (hpolicy : s.params.condNonePolicy = .fault) :
      Raises s (.br n z p off) (.condUnset (encode (.br n z p off)) s.instrAddr)
  | unknown (g : BitVec 4) {v : BitVec 8} (hv : v.toNat < 0x20 ∨ 0x25 < v.toNat)
      (hpolicy : s.params.unknownTrapPolicy = .fault) :
      Raises s (.trapUnknown g v) (.unknownTrapVector v s.instrAddr)
  | puts (g : BitVec 4) {e : Word} (hstop : ScanStopsAt s (s.reg 0#3) e) :
      Raises s (.trapPuts g) (.trapStringUnmodelled .puts e)
  | putsp (g : BitVec 4) {e : Word} (hstop : ScanStopsAt s (s.reg 0#3) e) :
      Raises s (.trapPutsp g) (.trapStringUnmodelled .putsp e)

/-- A flag setter, GETC or IN leaves the status. -/
theorem Effect.status_of_not_plain (h : Effect s i t) (hi : ¬ i.Plain) : t.status = s.status := by
  cases h with
  | result v hd hu => exact hu.status
  | holds => rfl
  | takes => simp
  | store _ _ hp | jump _ hp | link _ hp | stay hp | faults _ hp | writes _ hp | halts hp => exact absurd hp hi

/-- PUTS and PUTSP fault only where the scan from R0 stops. -/
theorem scanStopsAt_of_routineString {r : StringRoutine} {bytes : Word → List Byte}
    (h : routineString r bytes s = .next t) (hs : s.status ≠ .faulted f) (ht : t.status = .faulted f) :
    ∃ e, ScanStopsAt s (s.reg 0#3) e ∧ f = .trapStringUnmodelled r e := by
  rcases stringAt_or_scanStopsAt s (s.reg 0#3) with ⟨str, hstr⟩ | ⟨e, hstop⟩
  · cases (routineString_of_stringAt r bytes hstr).symm.trans h
    exact absurd ht hs
  · cases (routineString_of_stopsAt r bytes hstop).symm.trans h
    cases ht
    exact ⟨e, hstop, rfl⟩

/-- A well-formed instruction faults only as `Raises` lists. -/
theorem raises_of_exec (hwf : i.wellFormed = true) (hs : ∀ e, s.status ≠ .faulted e) (h : exec i s = .next t)
    (ht : t.status = .faulted f) : Raises s i f := by
  have hkept (hstatus : t.status = s.status) : Raises s i f := absurd (hstatus.symm.trans ht) (hs f)
  cases i with
  | br n z p off =>
    rcases execBr_cases h with rfl | rfl | ⟨hnone, hpolicy, hbits, rfl⟩
    · exact hkept rfl
    · exact hkept rfl
    · cases ht
      exact .condUnset off (nzpBits_ne_zero_iff.mp hbits) hnone hpolicy
  | trap g v => simp [Instr.wellFormed] at hwf
  | trapUnknown g v =>
    rcases routineUnknown_cases h with ⟨-, rfl⟩ | ⟨hpolicy, rfl⟩
    · exact hkept rfl
    · cases ht
      exact .unknown g (knownVector_eq_false_iff.mp (by simpa [Instr.wellFormed] using hwf)) hpolicy
  | trapPuts g =>
    obtain ⟨e, hstop, rfl⟩ := scanStopsAt_of_routineString h (hs f) ht
    exact .puts g hstop
  | trapPutsp g =>
    obtain ⟨e, hstop, rfl⟩ := scanStopsAt_of_routineString h (hs f) ht
    exact .putsp g hstop
  | reserved8 g =>
    cases (exec_reserved8 g s).symm.trans h
    cases ht
    exact .reserved8 g
  | reservedD g =>
    cases (exec_reservedD g s).symm.trans h
    cases ht
    exact .reservedD g
  | trapHalt g => cases h; nomatch ht
  | sti r off => cases h; exact hkept (s.memRead_status _)
  | jsrr g b k =>
    cases (exec_jsrr g b k s).symm.trans h
    exact hkept rfl
  | st | str | jmp | jsr | trapOut => cases h; exact hkept rfl
  -- the flag setters, GETC and IN
  | _ =>
    refine hkept ((exec_effect h).status_of_not_plain ?_)
    simp [Instr.Plain, Instr.setsFlagsFrom, Instr.readsInput]

end Faults

end Machine

open Machine

/-- Settles O44: the opcode in the record is the word's own. -/
theorem reservedOpcodeFaults : Obligations.ReservedOpcodeFaults := fun g s =>
  ⟨decode_encode (.reserved8 g), decode_encode (.reservedD g), exec_reserved8 g s, exec_reservedD g s⟩

/-- Settles O45: a faulting step is the fetch and the fault, so its frame is the fetch's. -/
theorem faultsArePrecise : Obligations.FaultsArePrecise := by
  intro s t f h ht
  obtain rfl := step_eq_setStatus_of_faulted h ht
  obtain ⟨hregs, -, hcond, -, hout, hparams⟩ := s.fetch_frame
  obtain ⟨hpc, -⟩ := fetchIncrementsPcModulo65536 s
  refine ⟨hpc, fun r => ?reg, hcond, hout, hparams, fun hoff => ?off, fun hon => ?polled⟩
  case reg => simp [State.reg, hregs]
  case off =>
    rw [State.fetch_of_ne hoff]
    exact ⟨fun _ => rfl, rfl, rfl, rfl⟩
  case polled =>
    rw [State.fetch_of_kbsr hon]
    exact ⟨fun _ => rfl, rfl, rfl, rfl⟩

/-- Settles O46: `Raises` holds the condition and the record of each kind. -/
theorem faultKindFollowsTheInstruction : Obligations.FaultKindFollowsTheInstruction := by
  intro i s t f hwf hs h ht
  cases raises_of_exec hwf hs h ht with
  | reserved8 g => exact ⟨rfl, rfl, .inl ⟨rfl, g, rfl, rfl⟩⟩
  | reservedD g => exact ⟨rfl, rfl, .inr ⟨rfl, g, rfl, rfl⟩⟩
  | condUnset off hbits hnone hpolicy => exact ⟨rfl, rfl, hnone, hpolicy, _, _, _, off, rfl, hbits, rfl⟩
  | unknown g hv hpolicy => exact ⟨rfl, rfl, hpolicy, hv, g, rfl⟩
  | puts g hstop => exact ⟨rfl, hstop, g, rfl⟩
  | putsp g hstop => exact ⟨rfl, hstop, g, rfl⟩

end Sys2Proof
end

section
/-! O49, O55, O56 and O59: reset (70_reset_and_hazards.md R103), the image load (R104) and the normal end of a run
(R108). An image that fits is placed word by word, so a cell below it or from its end on is read as before, and the
cell `j` words in holds word `j`. -/

namespace Sys2Proof

namespace Machine

/-! ### The end of a run -/

/-- HALTED is entered only by an instruction that writes to the host, reads no input and leaves COND. -/
theorem Effect.plain_writesOut_of_halted {i : Instr} {s t : State} (h : Effect s i t) (hs : s.status ≠ .halted)
    (ht : t.status = .halted) : i.Plain ∧ i.writesOut = true := by
  cases h with
  | halts hi ho => exact ⟨hi, ho⟩
  | faults => nomatch ht
  | result v hd hu | store a v hi hu => exact absurd (hu.status.symm.trans ht) hs
  | takes => exact absurd (by simpa using ht) hs
  | jump | link | stay | writes | holds => exact absurd ht hs

/-- A string routine ends with its bytes written or in a fault, never in HALTED. -/
theorem routineString_not_halted {r : StringRoutine} {f : Word → List Byte} {s t : State}
    (h : routineString r f s = .next t) (hs : s.status ≠ .halted) : t.status ≠ .halted := by
  rcases routineString_cases h with ⟨buf, -, rfl⟩ | ⟨e, -, rfl⟩
  · exact hs
  · simp

/-- Of the instructions that a word decodes to, only HALT enters HALTED. -/
theorem eq_trapHalt_of_exec_halted {i : Instr} {s t : State} (hwf : i.wellFormed = true) (h : exec i s = .next t)
    (hs : s.status ≠ .halted) (ht : t.status = .halted) : ∃ g, i = .trapHalt g := by
  obtain ⟨⟨-, hin⟩, hout⟩ := (exec_effect h).plain_writesOut_of_halted hs ht
  cases i with
  | trapHalt g => exact ⟨g, rfl⟩
  | trapOut g => cases h; exact absurd ht hs
  | trapPuts g => exact absurd ht (routineString_not_halted h hs)
  | trapPutsp g => exact absurd ht (routineString_not_halted h hs)
  | trap g v => simp [Instr.wellFormed] at hwf
  | trapIn g => simp [Instr.readsInput] at hin
  -- no other instruction writes to the host
  | _ => simp [Instr.writesOut] at hout

/-! ### Reset -/

theorem State.reg_reset (r : RegId) : State.reset.reg r = 0x0000#16 :=
  Vector.getElem_replicate _

/-! ### The image -/

/-- A word is its two bytes, high byte first. -/
theorem wordOfBytes_highByte_lowByte (w : Word) : wordOfBytes (highByte w) (lowByte w) = w := by
  rw [← BitVec.toNat_inj, wordOfBytes, toNat_cat, highByte, lowByte, toNat_bitField, toNat_bitField]
  have := w.isLt
  omega

/-- The loader reads back the words whose bytes, high byte first, make up the image. -/
theorem imageWords_flatMap (ws : List Word) :
    imageWords (ws.flatMap fun w => [highByte w, lowByte w]) = some ws := by
  induction ws with
  | nil => rfl
  | cons w ws ih =>
    simp only [List.flatMap_cons, List.cons_append, List.nil_append, imageWords, ih, Option.map_some,
      wordOfBytes_highByte_lowByte]

/-- What loading the bytes of an origin and some words answers. -/
theorem State.loadImage_flatMap (s : State) (o : Word) (vs : List Word) :
    s.loadImage ((o :: vs).flatMap fun w => [highByte w, lowByte w]) =
      some { s with mem := placeWords s.params.loadOverflow s.mem o.toNat vs } := by
  rw [State.loadImage, imageWords_flatMap]

section Placed

variable (ov : Config.LoadOverflow)

/-- Where an address is left, the next word goes there. -/
theorem placeWords_cons (m : Memory) {a : Nat} (ha : a < 65536) (v : Word) (vs : List Word) :
    placeWords ov m a (v :: vs) = placeWords ov (Memory.write m a v) (a + 1) vs :=
  if_pos ha

/-- Words that fit leave every cell outside their range. -/
theorem read_placeWords_outside (m : Memory) {a b : Nat} {vs : List Word} (hfit : a + vs.length ≤ 65536)
    (hb : b < a ∨ a + vs.length ≤ b) : Memory.read (placeWords ov m a vs) b = Memory.read m b := by
  induction vs generalizing m a with
  | nil => rfl
  | cons v vs ih =>
    rw [List.length_cons] at hfit hb
    rw [placeWords_cons ov m (by omega), ih _ (by omega) (by omega), Memory.read_write, if_neg (by omega)]

/-- Words that fit stand in order from the first address on. -/
theorem read_placeWords_inside (m : Memory) {a : Nat} {vs : List Word} (hfit : a + vs.length ≤ 65536) {j : Nat}
    (hj : j < vs.length) : Memory.read (placeWords ov m a vs) (a + j) = vs[j] := by
  induction vs generalizing m a j with
  | nil => nomatch hj
  | cons v vs ih =>
    rw [List.length_cons] at hfit hj
    rw [placeWords_cons ov m (by omega)]
    cases j with
    | zero =>
      rw [read_placeWords_outside ov _ (by omega) (by omega), Memory.read_write, Nat.add_zero, if_pos rfl,
        List.getElem_cons_zero]
    | succ j =>
      have hnext : a + (j + 1) = a + 1 + j := by omega
      rw [hnext, ih _ (by omega), List.getElem_cons_succ]

end Placed

/-- Two images are loaded one after the other. -/
theorem State.loadImages_pair (s : State) (x y : List Byte) :
    s.loadImages [x, y] = (s.loadImage x).bind fun t => t.loadImage y := by
  have hone (t : State) : t.loadImages [y] = t.loadImage y := by
    rw [State.loadImages]
    cases t.loadImage y <;> rfl
  rw [State.loadImages]
  cases s.loadImage x with
  | none => rfl
  | some t => exact hone t

end Machine

open Machine

/-- Settles O49: the fetched word decodes to a well-formed instruction, and only HALT enters HALTED. -/
theorem onlyHaltEndsNormally : Obligations.OnlyHaltEndsNormally := by
  intro s t h hend
  obtain ⟨hrunning, hexec⟩ := running_of_step_eq_next h
  obtain ⟨-, -, -, hstatus, -⟩ := s.fetch_frame
  exact eq_trapHalt_of_exec_halted (decode_wellFormed _) hexec (by simp [hstatus, hrunning]) hend

/-- Settles O55. -/
theorem resetLeavesTheStatedValues : Obligations.ResetLeavesTheStatedValues :=
  ⟨State.reg_reset, rfl, rfl, fun _ => rfl, rfl, rfl⟩

/-- Settles O56: no cell is listed at reset, and the defaults 0xFE00 and 0xFE02 differ. -/
theorem resetMeetsInvariant : Obligations.ResetMeetsInvariant :=
  ⟨⟨.nil, fun _ hc => nomatch hc⟩, by decide⟩

/-- Settles O59: the load writes memory only, and the image's words do not reach 0x10000. -/
theorem imageLoadCopiesTheWords : Obligations.ImageLoadCopiesTheWords := by
  refine ⟨fun s o vs hfit => ?_, State.loadImages_pair⟩
  refine ⟨_, s.loadImage_flatMap o vs, fun a ha => ?outside, fun j hj => ?inside, fun _ => rfl, rfl, rfl,
    ⟨rfl, rfl, rfl⟩, rfl, rfl, rfl⟩
  case outside => exact read_placeWords_outside _ _ hfit ha
  case inside =>
    have haddr : (o + BitVec.ofNat 16 j).toNat = o.toNat + j := by
      rw [BitVec.toNat_add, BitVec.toNat_ofNat]
      omega
    rw [State.rawRead, haddr]
    exact read_placeWords_inside _ _ hfit hj

end Sys2Proof
end
